-- ==== Sys2Proof/Word.lean ====
section
/-! DEFINITION. The word types of spec/00_scope.md R9: a byte, the 24-bit bus address, the 32-bit host values, and
the 9-bit counts of spec/10_state.md R25 and R30. All values are unsigned (R9). -/

namespace Sys2Proof

/-- `u8` of R9. -/
abbrev Byte := BitVec 8

/-- `u24` of R9: a bus address (R61, R65). -/
abbrev BusAddr := BitVec 24

/-- `u32` of R9: host address, host length, capacity. -/
abbrev Word := BitVec 32

/-- A count 0..256 in a 9-bit register (R25, R30). -/
abbrev Count := BitVec 9

end Sys2Proof
end

