-- ==== Sys2Proof/Syntax.lean ====
section
/-! DEFINITION. The instructions (every row of spec/opcode_table.json), the host command frames of spec/30_encoding.md
R90 and R106, the bus transactions of R99, and the observable events of spec/00_scope.md R11. -/

namespace Sys2Proof

/-- One constructor per row of spec/opcode_table.json. The first five are what the dispatcher reads from the transport
(R121), the last six what the block emits on the bus (R100). The dispatcher decides from the tag byte alone, "with no
look-ahead" (R120): the operands of R and W are received by later events of the same instruction (R141), so they are
no arguments here; a whole frame with its operands is a `Frame`. -/
inductive Instr where
  /-- `R`, Read (R124, R204). -/
  | read
  /-- `W`, Write (R125, R210). -/
  | write
  /-- `E`, Erase (R126, R216). -/
  | erase
  /-- `D`, Detect (R127, R219). -/
  | detect
  /-- `UNKNOWN`, any other tag byte (R128). -/
  | unknown (tag : Byte)
  /-- `BUS_RDID`, Read JEDEC ID (R186). -/
  | busRdid
  /-- `BUS_READ`, Read Data (R187). -/
  | busRead
  /-- `BUS_WREN`, Write Enable (R188). -/
  | busWren
  /-- `BUS_PP`, Page Program (R189). -/
  | busPp
  /-- `BUS_CE`, Chip Erase (R190). -/
  | busCe
  /-- `BUS_RDSR`, Read Status Register (R191). -/
  | busRdsr
  deriving DecidableEq, Repr

/-- A whole host command frame with its operands (R90 to R94); also one line of the assembler of R106. -/
inductive Frame where
  /-- `R <addr>, <len>`, format `F_AL` (R93). -/
  | read (addr len : Word)
  /-- `W <addr>, <len>, <bytes>`, format `F_ALP` (R94); the length field is the number of payload bytes. -/
  | write (addr : Word) (payload : List Byte)
  /-- `E`, format `F_TAG` (R92). -/
  | erase
  /-- `D`, format `F_TAG` (R92). -/
  | detect
  /-- `.byte <b>` at a tag position: an unknown tag (R102, R106). -/
  | unknown (tag : Byte)
  deriving DecidableEq, Repr

/-- The instruction the tag of a frame selects. -/
def Frame.instr : Frame → Instr
  | .read _ _ => .read
  | .write _ _ => .write
  | .erase => .erase
  | .detect => .detect
  | .unknown t => .unknown t

/-- A whole bus transaction with its operands (R99, R100). -/
inductive BusCmd where
  /-- 0x9F, three response bytes (R186). -/
  | rdid
  /-- 0x03, an address, `n` response bytes (R187). -/
  | read (a : BusAddr) (n : Nat)
  /-- 0x06 alone (R188). -/
  | wren
  /-- 0x02, an address, the payload bytes (R189). -/
  | program (a : BusAddr) (payload : List Byte)
  /-- 0xC7 alone (R190). -/
  | chipErase
  /-- 0x05, one response byte (R191). -/
  | rdsr
  deriving DecidableEq, Repr

/-- The instruction a bus transaction is an execution of. -/
def BusCmd.instr : BusCmd → Instr
  | .rdid => .busRdid
  | .read _ _ => .busRead
  | .wren => .busWren
  | .program _ _ => .busPp
  | .chipErase => .busCe
  | .rdsr => .busRdsr

/-- The two delays of R11. -/
inductive WaitKind where
  /-- `WREN_GAP`, between Write Enable and the write-class transaction (R285). -/
  | wrenGap
  /-- `POLL`, between two status polls (R231). -/
  | poll
  deriving DecidableEq, Repr

/-- The observable events of R11 and R45. `reset` is the model's own mark of a cycle with `rst = 1`, in which "no event
of R11 takes place" (R280): the chip sees its select released by it (R281). DESIGN CHOICE, log 25, safe. -/
inductive Event where
  | rx (b : Byte)
  | tx (b : Byte)
  | csAssert
  | csDeassert
  /-- `X(o→i)`: byte `o` out, byte `i` in, one exchange (R14, R181). -/
  | xfer (o i : Byte)
  | wait (k : WaitKind)
  | reset
  deriving DecidableEq, Repr

/-- Whether an event can be seen on the bus (R45's bus trace; the reset mark releases the select, R281). -/
def Event.onBus : Event → Bool
  | .rx _ => false
  | .tx _ => false
  | _ => true

/-- The bus trace of an event history (R45). -/
def busTrace (h : List Event) : List Event := h.filter Event.onBus

/-- The byte an event sends to the host, if it is one. -/
def Event.txByte : Event → Option Byte
  | .tx b => some b
  | _ => none

/-- "The bytes the host receives are the `TxByte` values in order" (R45). -/
def txStream (h : List Event) : List Byte := h.filterMap Event.txByte

/-- The byte an event takes from the host, if it is one. -/
def Event.rxByte : Event → Option Byte
  | .rx b => some b
  | _ => none

/-- The bytes the block has taken from the host, in order (R45). -/
def rxStream (h : List Event) : List Byte := h.filterMap Event.rxByte

end Sys2Proof
end

