-- ==== Sys2Proof/Config.lean ====
section
/-! DEFINITION. What an implementation fixes (spec/00_scope.md R7, R8) and the free values. A parameter the spec leaves
open, and a value it does not state, is an opaque constant with no body: whatever is proved holds for every value of it. -/

namespace Sys2Proof.Config

/-- CHUNK (R7): the most bytes one Read Data or Page Program transaction moves. -/
def chunkMax : Nat := 256

/-- ACK (R7, R95). -/
def ack : Byte := 0xAA#8

/-- NACK (R7): "reserved in the protocol constants but never emitted by any path" (R103). -/
def nack : Byte := 0x55#8

/-- EF_MFR (R7): the manufacturer code that enables the capacity fallback (R164). -/
def efManufacturer : Byte := 0xEF#8

/-- WIP_BIT (R7): the status-register bit the busy-wait tests. -/
def wipBit : Nat := 0

/-- One less than RX_DEPTH (R8: an integer ≥ 1), OPEN (D11). Log 9, safe. -/
opaque rxDepthLessOne : Nat

/-- RX_DEPTH (R8, R43): the bytes the receive queue holds before overrun. -/
def rxDepth : Nat := rxDepthLessOne + 1

/-- RX_FLUSH_ON_RESET (R8, R283), OPEN (D15). Log 10, safe. -/
opaque rxFlushOnReset : Bool

/-- The five codes of R162 whose capacity the source does not give. -/
inductive OpenCode where
  | c50 | c60 | c70 | c80 | c90
  deriving DecidableEq, Repr

/-- One less than CAP_50 .. CAP_90 (R162: each in [1, 2^32 − 1]), OPEN (D13). Log 11, safe. -/
opaque capLessOne : OpenCode → Fin 4294967295

/-- CAP_50 .. CAP_90 (R162). -/
def cap (c : OpenCode) : Word := BitVec.ofNat 32 ((capLessOne c).val + 1)

/-- The default of SPI_MODE (R8, D4): mode 0. -/
def spiModeDefault : Fin 4 := 0

/-- SPI_MODE (R8, D4): a parameter in {0, 1, 2, 3}, default `spiModeDefault`. No byte-level rule depends on it. Log 18, log 34,
safe. -/
opaque spiMode : Fin 4

/-- The default of T_WREN_GAP in nanoseconds (R8, D9): 1 µs, "on the order of 1 microsecond". -/
def wrenGapDefaultNs : Nat := 1000

/-- T_WREN_GAP in nanoseconds (R8, D9): a parameter, a lower bound between the end of the Write Enable transaction and the start
of the next, default `wrenGapDefaultNs`. Log 22, log 34, safe. -/
opaque wrenGapNs : Nat

/-- T_POLL in nanoseconds: 1 ms (R7, D10). -/
def pollNs : Nat := 1000000

/-- The least duration of a delay (R231, R285). The step counts no time (R296, D25). -/
def waitNs : WaitKind → Nat
  | .wrenGap => wrenGapNs
  | .poll => pollNs

/-- One less than F_CLK in hertz (R8), OPEN (D29). Log 34, safe. -/
opaque clockHzLessOne : Nat

/-- F_CLK in hertz (R8): the frequency of the block's one clock, "used only to size delay counters". -/
def clockHz : Nat := clockHzLessOne + 1

/-- The cycles of the clock a delay lasts at least, the size of its counter: the least whole number "≥ T·F_CLK" (D29, R32). No
rule reads the counter (R32), and the step counts no time. -/
def delayCycles (k : WaitKind) : Nat := (waitNs k * clockHz + 999999999) / 1000000000

/-- The chip oracle (R42): what an exchange that sends `o` after the bus history `h` answers. It "sees the whole bus
history; the model puts no law on it". Log 12, safe. -/
opaque chipAnswer (h : List Event) (o : Byte) : Byte

/-- The busy count a `RefChip` draws (D23: "`B <-` a drawn count") when none is listed for it. Log 14, safe. -/
opaque busyCount (n : Nat) : Nat

/-- What Setup writes to `xaddr` where its argument is `-` (R186, R188, R190, R191): a free value. Log 16, safe. -/
opaque dashAddr (n : Nat) : BusAddr

/-- Which of BUF, JEDEC and SR (0, 1, 2) Setup writes to `xdst` where its argument is `-` (R188 to R190): a free value.
Log 16, safe. -/
opaque dashDst (n : Nat) : Fin 3

/-- The level of `mosi` while no exchange runs (R46: unspecified): a free value. Log 17, safe. -/
opaque idleMosi (n : Nat) : Bool

/-- The value of `tx_data` while nothing is offered (R46: unspecified): a free value. Log 17, safe. -/
opaque idleTxData (n : Nat) : Byte

end Sys2Proof.Config
end

