-- ==== Sys2Proof/Machine/State.lean ====
section
/-! DEFINITION. The state of the machine as plain data: the block's phase and working registers (spec/10_state.md R22 to R33),
the transport's receive queue and the host's schedule (R43, R44), the chip (R42, D23) and the event history (R45); what a step
can stop with; and the state right after reset (R46). -/

namespace Sys2Proof.Machine

/-- The command a `PARAM` or `ACK1` phase serves: c ∈ {R, W} (R22). -/
inductive Transfer where
  | r | w
  deriving DecidableEq, Repr

/-- The command a `GAP` or `POLL_WAIT` phase serves: c ∈ {W, E} (R22). -/
inductive WriteClass where
  | w | e
  deriving DecidableEq, Repr

/-- The phase register, "the analogue of a program counter": it names the next event (R22). -/
inductive Phase where
  /-- `RxByte()` of a command tag (R120). -/
  | idle
  /-- `PARAM(c, k)`: `RxByte()` of parameter byte k (R141). -/
  | param (c : Transfer) (k : Fin 8)
  /-- `ACK1(c)`: `TxByte(0xAA)`, the opening acknowledgement (R205, R210). -/
  | ack1 (c : Transfer)
  /-- `R_OUT(i)`: `TxByte(buf[i])` (R206). -/
  | rOut (i : Fin 256)
  /-- `W_IN(i)`: `RxByte()` into `buf[i]` (R211). -/
  | wIn (i : Fin 256)
  /-- `GAP(c)`: `Wait(WREN_GAP)` (R212, R216). -/
  | gap (c : WriteClass)
  /-- `POLL_WAIT(c)`: `Wait(POLL)` (R231). -/
  | pollWait (c : WriteClass)
  /-- `ACK2`: the closing acknowledgement of Write (R213). -/
  | ack2
  /-- `E_ACK`: the acknowledgement of Erase (R217). -/
  | eAck
  /-- `D_OUT(k)`: Detect response byte k (R221). -/
  | dOut (k : Fin 7)
  /-- `X_CSON`: `CsAssert()` (R180). -/
  | xCsOn
  /-- `X_OP`: `Xfer(xop)` (R180). -/
  | xOp
  /-- `X_ADDR(k)`: `Xfer(BEbytes24(xaddr)[k])` (R180). -/
  | xAddr (k : Fin 3)
  /-- `X_PAY(i)`: `Xfer(buf[i])` (R180). -/
  | xPay (i : Fin 256)
  /-- `X_RESP(i)`: `Xfer(0x00)`, input captured (R180). -/
  | xResp (i : Fin 256)
  /-- `X_CSOFF`: `CsDeassert()` (R180). -/
  | xCsOff
  deriving DecidableEq, Repr

/-- `xdst`: where response bytes land (R30, D17). -/
inductive Dst where
  | buf | jedec | sr
  deriving DecidableEq, Repr

/-- `xret`: the continuation after a transaction (R33). -/
inductive Ret where
  /-- `RD_DONE` (R204). -/
  | rdDone
  /-- `W_WREN_DONE` (R212). -/
  | wWrenDone
  /-- `W_PP_DONE` (R212). -/
  | wPpDone
  /-- `E_WREN_DONE` (R216). -/
  | eWrenDone
  /-- `E_CE_DONE` (R216). -/
  | eCeDone
  /-- `D_ID_DONE` (R220). -/
  | dIdDone
  /-- `POLL_DONE(c)` (R232). -/
  | pollDone (c : WriteClass)
  deriving DecidableEq, Repr

/-- The reference chip of 92_eei_decisions.md D23, an optional environment: no rule of the block depends on it.
PRESUMED, log 13: the spec takes it from general knowledge. -/
structure RefChip where
  /-- `M`: (address, byte) pairs, addresses strictly rising, no byte 0xFF; an unlisted address reads 0xFF (log 27). -/
  mem : List Host.Cell
  /-- `CHIP_CAP` is 2^capLog, "a power of two ≤ 2^24". -/
  capLog : Fin 25
  /-- `WEL`, the write-enable latch. -/
  wel : Bool
  /-- `B`, the busy count. -/
  busy : Nat
  /-- The JEDEC triple. -/
  jedec : Vector Byte 3
  /-- The bytes received since the chip was selected, oldest first. -/
  cmd : List Byte
  /-- The busy counts it will draw, in order (log 14). -/
  draws : List Nat
  deriving DecidableEq, Repr

/-- The agent on the bus (R42). -/
inductive Chip where
  /-- The lawless oracle: the answers it gives next, one per exchange; after them, free values (log 12). -/
  | oracle (pending : List Byte)
  /-- A chip that answers the same byte `b` for ever once the pending answers are given: one that is absent, faulted or wired
  wrongly (R233, D28), whose status bit 0 never reads clear where `b`'s bit 0 is set (R254). One chip the oracle allows (log 33). -/
  | steady (pending : List Byte) (b : Byte)
  /-- A chip that behaves as `RefChip` (D23, log 13). -/
  | ref (c : RefChip)
  deriving DecidableEq, Repr

/-- What the host does in one step (R43, R44, R262): the level of `rst`, the level of `tx_ready`, and the bytes it
delivers before the step's event. Log 6. -/
structure HostInput where
  rst : Bool
  txReady : Bool
  arrive : List Byte
  deriving DecidableEq, Repr

/-- The machine's state. -/
structure State where
  /-- R22. -/
  phase : Phase
  /-- R23. -/
  addr : Word
  /-- R24. -/
  rem : Word
  /-- R25. -/
  chunk : Count
  /-- R26. -/
  buf : Vector Byte 256
  /-- R27. -/
  jedec : Vector Byte 3
  /-- R28. -/
  cap : Word
  /-- R29. -/
  sr : Byte
  /-- R30. -/
  xop : Byte
  /-- R30. -/
  xhasAddr : Bool
  /-- R30. -/
  xaddr : BusAddr
  /-- R30. -/
  xnpay : Count
  /-- R30. -/
  xnresp : Count
  /-- R30. -/
  xdst : Dst
  /-- R33. -/
  xret : Ret
  /-- R31. -/
  csActive : Bool
  /-- The input port `rst` of R20, as read in this step (log 6). -/
  rst : Bool
  /-- The input port `tx_ready` of R20, as read in this step (log 6). -/
  txReady : Bool
  /-- R43: the bytes the host has sent and the block has not taken, oldest first. -/
  rxq : List Byte
  /-- The MODEL's own field: the host's schedule, one entry a step; when it ends the ports keep their levels (log 6). -/
  inputs : List HostInput
  /-- R42. -/
  chip : Chip
  /-- R45: the event history, oldest first. Its length is also the counter free values are drawn with (log 16, 17). -/
  hist : List Event
  deriving DecidableEq, Repr

/-- Why the machine stops. -/
inductive Fault where
  /-- Raised by the delivery of a byte while the receive queue holds RX_DEPTH bytes (R253). The spec's own model fault: "the
  run is faulted for good". Safe where RX_DEPTH is no larger than the real buffer (D11). -/
  | rxOverrun
  deriving DecidableEq, Repr

/-- Why an instruction is refused. -/
inductive Refusal where
  /-- Raised by `exec`'s arm of an instruction that has no meaning yet. Safe. -/
  | notModelled (mnemonic : String)
  /-- Raised by a meaning asked for the next event of an instruction whose turn it is not (the phase names an event of another
  instruction, or the byte at the head of the queue is another instruction's tag). `step` asks only for the instruction in
  progress, so no step is refused so. Safe, log 2. -/
  | notInProgress
  /-- Raised by `step` in a transaction phase whose opcode register holds none of the six opcodes. The block sends no other
  opcode (R192), so no run from reset reaches it. Safe, log 26. -/
  | noBusOpcode
  deriving DecidableEq, Repr

/-- The outcome of a step of this machine. -/
abbrev Out := Host.Outcome State Fault Refusal

/-- The machine right after reset (R46). `phase` and `csActive` are the spec's; every register R46 calls unspecified holds
the value log 7 names (DESIGN CHOICE, unsafe); the queue is empty, the host idle and accepting, the chip a lawless oracle
and the history empty (log 6, 10, 12). -/
def State.reset : State where
  phase := .idle
  addr := 0
  rem := 0
  chunk := 0
  buf := Vector.replicate 256 0
  jedec := Vector.replicate 3 0
  cap := 0
  sr := 0
  xop := 0
  xhasAddr := false
  xaddr := 0
  xnpay := 0
  xnresp := 0
  xdst := .buf
  xret := .rdDone
  csActive := false
  rst := false
  txReady := true
  rxq := []
  inputs := []
  chip := .oracle []
  hist := []

end Sys2Proof.Machine
end

