-- ==== Sys2Proof/Machine/Capacity.lean ====
section
/-! DEFINITION. The capacity lookup ROM and the JEDEC capacity decode with the manufacturer fallback (spec/42_capacity_table.md). -/

namespace Sys2Proof.Machine

/-- `Cap(id)`, the whole table of R160: nine codes doubling from 2^17 (R161), 0x40 and five codes whose values are open
(R162), and 0 for every other byte (R163). -/
def capOf (id : Byte) : Word :=
  if id = 0x11#8 then 0x00020000#32
  else if id = 0x12#8 then 0x00040000#32
  else if id = 0x13#8 then 0x00080000#32
  else if id = 0x14#8 then 0x00100000#32
  else if id = 0x15#8 then 0x00200000#32
  else if id = 0x16#8 then 0x00400000#32
  else if id = 0x17#8 then 0x00800000#32
  else if id = 0x18#8 then 0x01000000#32
  else if id = 0x19#8 then 0x02000000#32
  else if id = 0x40#8 then 0x00100000#32
  else if id = 0x50#8 then Config.cap .c50
  else if id = 0x60#8 then Config.cap .c60
  else if id = 0x70#8 then Config.cap .c70
  else if id = 0x80#8 then Config.cap .c80
  else if id = 0x90#8 then Config.cap .c90
  else 0

/-- `DecodeCapacity(j0, j1, j2)` (R164, R165). -/
def decodeCapacity (j0 j1 j2 : Byte) : Word :=
  if capOf j2 = 0 ∧ j0 = Config.efManufacturer then capOf j1 else capOf j2

end Sys2Proof.Machine
end

