-- ==== Sys2Proof/WellFormed.lean ====
section
/-! DEFINITION. Which instructions, frames and bus transactions the encodings of spec/30_encoding.md admit. -/

namespace Sys2Proof

/-- A byte is one of the four defined tags (R91): "Matching is exact on all 8 bits". -/
def isCommandTag (t : Byte) : Bool :=
  t == 0x52#8 || t == 0x57#8 || t == 0x45#8 || t == 0x44#8

/-- An UNKNOWN instruction carries a byte that is none of the four tags (R102, R128). -/
def Instr.wellFormed : Instr → Bool
  | .read => true
  | .write => true
  | .erase => true
  | .detect => true
  | .unknown t => !isCommandTag t
  | .busRdid => true
  | .busRead => true
  | .busWren => true
  | .busPp => true
  | .busCe => true
  | .busRdsr => true

/-- The length field of a `W` frame is the number of payload bytes, so it must fit 32 bits (R94, R97); an unknown frame's
byte is no tag (R102). -/
def Frame.wellFormed : Frame → Bool
  | .write _ payload => decide (payload.length < 2 ^ 32)
  | .unknown t => !isCommandTag t
  | _ => true

/-- Read Data and Page Program move 1 to 256 bytes (R68, R100). -/
def BusCmd.wellFormed : BusCmd → Bool
  | .read _ n => decide (1 ≤ n) && decide (n ≤ 256)
  | .program _ payload => decide (1 ≤ payload.length) && decide (payload.length ≤ 256)
  | _ => true

end Sys2Proof
end

