-- ==== Sys2Proof/Decode.lean ====
section
/-! DEFINITION. The byte-order helpers of spec/00_scope.md R10, the decoders of spec/30_encoding.md (total on every byte or
byte list, rejecting by name), and then the encoders of the same tables. -/

namespace Sys2Proof

/-! ### Byte order (R10, R60, R61) -/

/-- Byte `k` of a 32-bit value, byte 0 the least significant: `v[8k+7 : 8k]`. -/
def byteOf (v : Word) (k : Nat) : Byte := v.extractLsb' (8 * k) 8

/-- `LE32` of R10: `b0` is the first byte in stream order. -/
def le32 (b0 b1 b2 b3 : Byte) : Word :=
  b0.setWidth 32 ||| (b1.setWidth 32 <<< 8) ||| (b2.setWidth 32 <<< 16) ||| (b3.setWidth 32 <<< 24)

/-- `LEbytes32` of R10. -/
def leBytes32 (v : Word) : List Byte := [byteOf v 0, byteOf v 1, byteOf v 2, byteOf v 3]

/-- Byte `k` of `BEbytes24(a) = [a[23:16], a[15:8], a[7:0]]` (R10, R61). -/
def beByte24 (a : BusAddr) (k : Nat) : Byte := a.extractLsb' (8 * (2 - k)) 8

/-- `BEbytes24` of R10. -/
def beBytes24 (a : BusAddr) : List Byte := [beByte24 a 0, beByte24 a 1, beByte24 a 2]

/-- The 24-bit address three bus bytes spell, most significant first (R61). -/
def be24 (b0 b1 b2 : Byte) : BusAddr :=
  (b0.setWidth 24 <<< 16) ||| (b1.setWidth 24 <<< 8) ||| b2.setWidth 24

/-! ### Decoders -/

/-- Why a decoder rejects. -/
inductive DecodeError where
  /-- No byte at all. -/
  | empty
  /-- Fewer than the 8 parameter bytes of R or W (R93): the block would wait for them (R252). -/
  | shortParameters
  /-- Fewer payload bytes than the length field says (R94): the block would wait for them (R252). -/
  | shortPayload
  /-- The byte is none of the six bus opcodes (R100, R192). -/
  | notABusOpcode (b : Byte)
  /-- The bytes after a bus opcode do not fit its format (R99). -/
  | badTransaction
  deriving DecidableEq, Repr

/-- Dispatch on a tag byte (R121, R102): total, "every byte value has exactly one outcome". -/
def decodeTag (t : Byte) : Instr :=
  if t = 0x52#8 then .read
  else if t = 0x57#8 then .write
  else if t = 0x45#8 then .erase
  else if t = 0x44#8 then .detect
  else .unknown t

/-- The bus instruction of an opcode byte (R100). -/
def decodeBus (op : Byte) : Except DecodeError Instr :=
  if op = 0x9F#8 then .ok .busRdid
  else if op = 0x03#8 then .ok .busRead
  else if op = 0x06#8 then .ok .busWren
  else if op = 0x02#8 then .ok .busPp
  else if op = 0xC7#8 then .ok .busCe
  else if op = 0x05#8 then .ok .busRdsr
  else .error (.notABusOpcode op)

/-- The first `n` bytes of a list and the rest; `none` when there are fewer. -/
def takeBytes : Nat → List Byte → Option (List Byte × List Byte)
  | 0, bs => some ([], bs)
  | _ + 1, [] => none
  | n + 1, b :: bs => (takeBytes n bs).map fun p => (b :: p.1, p.2)

/-- The two 32-bit fields after the tag of R and W (R93, R97): address, then length. -/
def decodeParams : List Byte → Except DecodeError (Word × Word × List Byte)
  | a0 :: a1 :: a2 :: a3 :: l0 :: l1 :: l2 :: l3 :: rest => .ok (le32 a0 a1 a2 a3, le32 l0 l1 l2 l3, rest)
  | _ => .error .shortParameters

/-- The frame at the head of a host stream and the bytes after it (R90 to R96). -/
def decodeFrame : List Byte → Except DecodeError (Frame × List Byte)
  | [] => .error .empty
  | t :: bs =>
    match decodeTag t with
    | .read =>
      match decodeParams bs with
      | .ok (a, l, rest) => .ok (.read a l, rest)
      | .error e => .error e
    | .write =>
      match decodeParams bs with
      | .ok (a, l, rest) =>
        match takeBytes l.toNat rest with
        | some (payload, rest') => .ok (.write a payload, rest')
        | none => .error .shortPayload
      | .error e => .error e
    | .erase => .ok (.erase, bs)
    | .detect => .ok (.detect, bs)
    | _ => .ok (.unknown t, bs)

/-- The number of response bytes a run of dummy bytes clocks in; `none` when one of them is not 0x00 (R184). -/
def dummyCount : List Byte → Option Nat
  | [] => some 0
  | b :: bs => if b = 0x00#8 then (dummyCount bs).map (· + 1) else none

/-- The bus transaction the MOSI bytes of one chip-select assertion spell (R99). The block never decodes one; a chip does
(log 29). -/
def decodeBusCmd : List Byte → Except DecodeError BusCmd
  | [] => .error .empty
  | op :: bs =>
    match decodeBus op with
    | .ok .busRdid => if bs = [0x00#8, 0x00#8, 0x00#8] then .ok .rdid else .error .badTransaction
    | .ok .busRdsr => if bs = [0x00#8] then .ok .rdsr else .error .badTransaction
    | .ok .busWren => if bs = [] then .ok .wren else .error .badTransaction
    | .ok .busCe => if bs = [] then .ok .chipErase else .error .badTransaction
    | .ok .busRead =>
      match bs with
      | a2 :: a1 :: a0 :: dummies =>
        match dummyCount dummies with
        | some n => .ok (.read (be24 a2 a1 a0) n)
        | none => .error .badTransaction
      | _ => .error .badTransaction
    | .ok .busPp =>
      match bs with
      | a2 :: a1 :: a0 :: payload => .ok (.program (be24 a2 a1 a0) payload)
      | _ => .error .badTransaction
    | .ok _ => .error .badTransaction
    | .error e => .error e

/-- The instruction of a table word (spec/opcode_table.json): its first byte, bits 7..0, is the tag or the opcode, and no
row fixes another bit. The six bus rows come before the catch-all UNKNOWN, which is "lowest priority"; on the transport
itself only `decodeTag` reads, so there a bus opcode's byte is an unknown tag (R102). DESIGN CHOICE, log 4, safe. -/
def decodeTableWord (_nbits w : Nat) : Option Instr :=
  match decodeBus (BitVec.ofNat 8 w) with
  | .ok i => some i
  | .error _ => some (decodeTag (BitVec.ofNat 8 w))

/-! ### Encoders -/

/-- The tag or opcode byte of an instruction (R91, R100). -/
def opcodeOf : Instr → Byte
  | .read => 0x52#8
  | .write => 0x57#8
  | .erase => 0x45#8
  | .detect => 0x44#8
  | .unknown t => t
  | .busRdid => 0x9F#8
  | .busRead => 0x03#8
  | .busWren => 0x06#8
  | .busPp => 0x02#8
  | .busCe => 0xC7#8
  | .busRdsr => 0x05#8

/-- The words of an instruction: its one tag or opcode byte. -/
def encode (i : Instr) : List Byte := [opcodeOf i]

/-- Whether an instruction is read from the transport (R121) or from the transaction descriptor (R100). -/
def Instr.onTransport : Instr → Bool
  | .read => true
  | .write => true
  | .erase => true
  | .detect => true
  | .unknown _ => true
  | .busRdid => false
  | .busRead => false
  | .busWren => false
  | .busPp => false
  | .busCe => false
  | .busRdsr => false

/-- The decoder an instruction's word goes through: the tag decoder on the transport, the opcode decoder on the bus. -/
def decodeFor (i : Instr) : List Byte → Except DecodeError Instr
  | [] => .error .empty
  | b :: _ => if i.onTransport then .ok (decodeTag b) else decodeBus b

/-- The bytes of a frame (R90 to R94), which are also what the assembler of R106 emits for its line. -/
def encodeFrame : Frame → List Byte
  | .read a l => 0x52#8 :: (leBytes32 a ++ leBytes32 l)
  | .write a payload => 0x57#8 :: (leBytes32 a ++ leBytes32 (BitVec.ofNat 32 payload.length) ++ payload)
  | .erase => [0x45#8]
  | .detect => [0x44#8]
  | .unknown t => [t]

/-- A host stream from its frames, one after another (R106, R123). -/
def encodeStream (fs : List Frame) : List Byte := fs.flatMap encodeFrame

/-- The bytes on MOSI of a transaction, in order (R99). -/
def encodeBusCmd : BusCmd → List Byte
  | .rdid => 0x9F#8 :: List.replicate 3 0x00#8
  | .read a n => 0x03#8 :: (beBytes24 a ++ List.replicate n 0x00#8)
  | .wren => [0x06#8]
  | .program a payload => 0x02#8 :: (beBytes24 a ++ payload)
  | .chipErase => [0xC7#8]
  | .rdsr => [0x05#8, 0x00#8]

/-- The number of bytes of a frame (R96): told by the tag alone, and for W by the length field. -/
def Frame.length : Frame → Nat
  | .read _ _ => 9
  | .write _ payload => 9 + payload.length
  | .erase => 1
  | .detect => 1
  | .unknown _ => 1

end Sys2Proof
end

