-- ==== Sys2Proof/Machine/Memory.lean ====
section
/-! DEFINITION. The flash array as a canonical list of (address, byte) pairs, for the reference chip of D23: `MemRead` and
`MemWrite` of spec/00_scope.md R12 "appear only in the reference chip model". Addresses strictly rise and no entry holds the
byte an unlisted address reads as. -/

namespace Sys2Proof.Machine

/-- A flash array. -/
abbrev Memory := List Host.Cell

/-- What an unlisted address reads as: the erased state, "bytes of value 0xFF (the erased state of NOR flash)" (R294).
Log 27. -/
def Memory.erased : Byte := 0xFF#8

/-- The byte at an address. -/
def Memory.read : Memory → Nat → Byte
  | [], _ => Memory.erased
  | (x, v) :: m, a => if x = a then v else Memory.read m a

/-- An entry, unless the byte is what an unlisted address reads as. -/
def Memory.entry (a : Nat) (b : Byte) (m : Memory) : Memory :=
  if b = Memory.erased then m else (a, b) :: m

/-- Write one byte, keeping the canonical form. -/
def Memory.write : Memory → Nat → Byte → Memory
  | [], a, b => Memory.entry a b []
  | (x, v) :: m, a, b =>
    if a < x then Memory.entry a b ((x, v) :: m)
    else if a = x then Memory.entry a b m
    else (x, v) :: Memory.write m a b

/-- Every entry at or above `lo`, addresses strictly rising, no entry equal to the erased byte. -/
def Memory.wfFrom : Nat → Memory → Bool
  | _, [] => true
  | lo, (x, v) :: m => decide (lo ≤ x) && (v != Memory.erased) && Memory.wfFrom (x + 1) m

/-- The canonical form. -/
def Memory.wf (m : Memory) : Bool := Memory.wfFrom 0 m

/-- `MemRead(addr, n)` of R12. -/
def Memory.readN (m : Memory) (a : Nat) : Nat → List Byte
  | 0 => []
  | n + 1 => Memory.read m a :: Memory.readN m (a + 1) n

/-- `MemWrite(addr, n, v)` of R12, `n` the length of the list. -/
def Memory.writeN (m : Memory) (a : Nat) : List Byte → Memory
  | [] => m
  | b :: bs => Memory.writeN (Memory.write m a b) (a + 1) bs

end Sys2Proof.Machine
end

