-- ==== Sys2Proof/Machine/Chip.lean ====
section
/-! DEFINITION. The agent that answers the bus: the lawless oracle of spec/10_state.md R42, the chip that answers one byte for
ever (spec/44_busy_wait.md R233), and the reference chip `RefChip` of spec/92_eei_decisions.md D23. -/

namespace Sys2Proof.Machine

/-! ### RefChip (D23) -/

/-- `CHIP_CAP`. -/
def RefChip.capacity (c : RefChip) : Nat := 2 ^ c.capLog.val

/-- `M[a mod CHIP_CAP]`. -/
def RefChip.peek (c : RefChip) (a : Nat) : Byte := Memory.read c.mem (a % c.capacity)

/-- The status byte, `(WEL << 1) | (B > 0 ? 1 : 0)`. -/
def RefChip.status (c : RefChip) : Byte :=
  (if c.wel then 0x02#8 else 0x00#8) ||| (if c.busy = 0 then 0x00#8 else 0x01#8)

/-- Where payload byte `i` of a Page Program at `a` lands: `p = (a & 0xFFFF00) | ((a + i) & 0xFF)`, wrapping within the page. -/
def RefChip.pageAddr (a : BusAddr) (i : Nat) : BusAddr :=
  (a &&& 0xFFFF00#24) ||| ((a + BitVec.ofNat 24 i) &&& 0x0000FF#24)

/-- `M[p mod CHIP_CAP] <- M[p mod CHIP_CAP] AND d`: programming only clears bits. -/
def RefChip.programByte (c : RefChip) (p : Nat) (d : Byte) : RefChip :=
  { c with mem := Memory.write c.mem (p % c.capacity) (c.peek p &&& d) }

/-- Program payload bytes from number `i` on. -/
def RefChip.programFrom (c : RefChip) (a : BusAddr) (i : Nat) : List Byte → RefChip
  | [] => c
  | d :: ds => RefChip.programFrom (c.programByte (RefChip.pageAddr a i).toNat d) a (i + 1) ds

/-- After a write-class command: `WEL <- 0` and `B <-` a drawn count, the next listed one, else the free value `n` numbers
(log 14). -/
def RefChip.finishWrite (c : RefChip) (n : Nat) : RefChip :=
  match c.draws with
  | [] => { c with wel := false, busy := Config.busyCount n }
  | b :: bs => { c with wel := false, busy := b, draws := bs }

/-- The chip is selected: a transaction begins. -/
def RefChip.select (c : RefChip) : RefChip := { c with cmd := [] }

/-- One exchange: the byte `o` joins the transaction, and the answer is what D23 gives at this place; `none` where it gives
none (the opcode, address and payload places, whose answer no rule reads, R183). DEDUCED, log 28. -/
def RefChip.exchange (c : RefChip) (o : Byte) : Option Byte × RefChip :=
  let c' := { c with cmd := c.cmd ++ [o] }
  match c.cmd with
  | [] => (none, c')
  | op :: args =>
    if op = 0x9F#8 then (c.jedec[args.length]?, c')
    else if op = 0x03#8 then
      match args with
      | a2 :: a1 :: a0 :: before => (some (c.peek ((be24 a2 a1 a0).toNat + before.length)), c')
      | _ => (none, c')
    else if op = 0x05#8 then (some c.status, { c' with busy := c.busy - 1 })
    else (none, c')

/-- The effect of a transaction that has ended: `0x06` sets WEL, `0x02` and `0xC7` act if WEL is set ("A write-class opcode
with `WEL = 0` does nothing"). -/
def RefChip.perform (c : RefChip) (n : Nat) : Except DecodeError BusCmd → RefChip
  | .ok .wren => { c with wel := true }
  | .ok (.program a payload) => if c.wel then (c.programFrom a 0 payload).finishWrite n else c
  | .ok .chipErase => if c.wel then RefChip.finishWrite { c with mem := [] } n else c
  | .ok .rdid => c
  | .ok (.read _ _) => c
  | .ok .rdsr => c
  | .error _ => c

/-- The chip is released: the transaction ends and takes effect (log 28). -/
def RefChip.deselect (c : RefChip) (n : Nat) : RefChip :=
  { c.perform n (decodeBusCmd c.cmd) with cmd := [] }

/-! ### The chip on the bus -/

/-- `CsAssert()` as the chip sees it. -/
def Chip.select : Chip → Chip
  | .oracle p => .oracle p
  | .steady p b => .steady p b
  | .ref c => .ref c.select

/-- The answer to one exchange after the history `h` (R42): the next pending answer, else the oracle's free value of the bus
history. A `RefChip` answers by D23, and with the same free value where D23 gives no answer. -/
def Chip.exchange (c : Chip) (h : List Event) (o : Byte) : Byte × Chip :=
  match c with
  | .oracle [] => (Config.chipAnswer (busTrace h) o, .oracle [])
  | .oracle (b :: bs) => (b, .oracle bs)
  | .steady [] b => (b, .steady [] b)
  | .steady (a :: as) b => (a, .steady as b)
  | .ref r =>
    let x := r.exchange o
    (x.1.getD (Config.chipAnswer (busTrace h) o), .ref x.2)

/-- `CsDeassert()` as the chip sees it. -/
def Chip.deselect (c : Chip) (h : List Event) : Chip :=
  match c with
  | .oracle p => .oracle p
  | .steady p b => .steady p b
  | .ref r => .ref (r.deselect h.length)

/-- A transaction cut short by reset (R281): "What the chip does with a truncated transaction is chip behaviour", any value
(I14). D23 gives no law for it, so a `RefChip` is a lawless oracle from then on; a steady chip goes on as it is. Log 15, safe. -/
def Chip.cutShort : Chip → Chip
  | .oracle p => .oracle p
  | .steady p b => .steady p b
  | .ref _ => .oracle []

/-- The byte of the flash array at an address, where the chip attached is a `RefChip`. -/
def Chip.flash : Chip → Nat → Option Byte
  | .oracle _, _ => none
  | .steady _ _, _ => none
  | .ref c, a => some (c.peek a)

/-- The canonical form of the flash array. -/
def Chip.wf : Chip → Bool
  | .oracle _ => true
  | .steady _ _ => true
  | .ref c => Memory.wf c.mem

end Sys2Proof.Machine
end

