-- ==== Sys2Proof/Machine/Flags.lean ====
section
/-! DEFINITION. The one flag any rule tests (spec/10_state.md R35): the chip's write-in-progress bit. The block has no condition
codes and no flag register. -/

namespace Sys2Proof.Machine

/-- Bit 0 of a status byte; "all other bits unspecified by this design" (R29, R234). -/
def writeInProgress (status : Byte) : Bool := status.getLsbD Config.wipBit

/-- The flag as the busy-wait reads it, from the last status byte captured (R29, R232). -/
def State.busyFlag (s : State) : Bool := writeInProgress s.sr

end Sys2Proof.Machine
end

