-- ==== Sys2Proof/Machine/Operands.lean ====
section
/-! DEFINITION. The operand forms: the parameter bytes of R and W (spec/41_serial_framing.md R141), the bus address (R101), the
chunk size (R146), the Detect response bytes (R221), and the indices a phase counts with. -/

namespace Sys2Proof.Machine

/-- `v[8k+7 : 8k] <- b` (R141). -/
def setByte (v : Word) (k : Nat) (b : Byte) : Word :=
  (v &&& ~~~(0xFF#32 <<< (8 * k))) ||| (b.setWidth 32 <<< (8 * k))

/-- `addr[23:0]`: the top 8 bits are "unused by the bus protocol" (R23, R101). -/
def busAddr (addr : Word) : BusAddr := addr.setWidth 24

/-- `min(rem, 256)` (R146). -/
def chunkOf (rem : Word) : Count := BitVec.ofNat 9 (min rem.toNat Config.chunkMax)

/-- The index after `i` of a loop over `0 .. limit - 1`: `none` when `i` is the last (`i < limit − 1` fails). A loop also
ends at its last phase, which no limit the invariant admits exceeds (log 26). -/
def nextIndex {n : Nat} (i : Fin n) (limit : Nat) : Option (Fin n) :=
  if h : i.val + 1 < n then
    if i.val + 1 < limit then some ⟨i.val + 1, h⟩ else none
  else none

/-- Detect response byte `k`: the JEDEC bytes in the order received, then the capacity little-endian (R221). -/
def State.detectByte (s : State) (k : Fin 7) : Byte :=
  if h : k.val < 3 then s.jedec[k.val] else byteOf s.cap (k.val - 3)

/-- The byte the phase offers to the transport, where its event is `TxByte` (R22, R143). -/
def State.offered (s : State) : Option Byte :=
  match s.phase with
  | .idle => none
  | .param _ _ => none
  | .ack1 .r => some Config.ack
  | .ack1 .w => some Config.ack
  | .rOut i => some s.buf[i.val]
  | .wIn _ => none
  | .gap _ => none
  | .pollWait _ => none
  | .ack2 => some Config.ack
  | .eAck => some Config.ack
  | .dOut k => some (s.detectByte k)
  | .xCsOn => none
  | .xOp => none
  | .xAddr _ => none
  | .xPay _ => none
  | .xResp _ => none
  | .xCsOff => none

end Sys2Proof.Machine
end

