-- ==== Sys2Proof/Machine/Updates.lean ====
section
/-! DEFINITION. The named updates of the state: every write of a field goes through one of these, so that what each leaves
alone is said once (Sys2Proof/Laws/State.lean). -/

namespace Sys2Proof.Machine

/-- `phase <- P` (R11). -/
def State.goto (s : State) (p : Phase) : State := { s with phase := p }

/-- One observable event joins the history (R45). -/
def State.log (s : State) (e : Event) : State := { s with hist := s.hist ++ [e] }

/-- The receive queue (R43). -/
def State.setRxq (s : State) (q : List Byte) : State := { s with rxq := q }

/-- R23. -/
def State.setAddr (s : State) (v : Word) : State := { s with addr := v }

/-- R24. -/
def State.setRem (s : State) (v : Word) : State := { s with rem := v }

/-- R25. -/
def State.setChunk (s : State) (v : Count) : State := { s with chunk := v }

/-- `buf[i] <- b` (R26). -/
def State.setBuf (s : State) (i : Fin 256) (b : Byte) : State := { s with buf := s.buf.set i.val b }

/-- `jedec[i] <- b` (R27); there is no `jedec[i]` past 2 (log 26). -/
def State.setJedec (s : State) (i : Nat) (b : Byte) : State :=
  { s with jedec := if h : i < 3 then s.jedec.set i b else s.jedec }

/-- R28. -/
def State.setCap (s : State) (v : Word) : State := { s with cap := v }

/-- R29. -/
def State.setSr (s : State) (b : Byte) : State := { s with sr := b }

/-- R31. -/
def State.setCs (s : State) (v : Bool) : State := { s with csActive := v }

/-- The chip (R42). -/
def State.setChip (s : State) (c : Chip) : State := { s with chip := c }

/-- The transaction descriptor and the continuation, written together (R30, R33, R180). -/
def State.setDescriptor (s : State) (op : Byte) (hasAddr : Bool) (a : BusAddr) (npay nresp : Count) (dst : Dst) (ret : Ret) :
    State :=
  { s with xop := op, xhasAddr := hasAddr, xaddr := a, xnpay := npay, xnresp := nresp, xdst := dst, xret := ret }

/-- The input ports and the rest of the host's schedule (R20, log 6). -/
def State.setPorts (s : State) (x : HostInput) (rest : List HostInput) : State :=
  { s with rst := x.rst, txReady := x.txReady, inputs := rest }

end Sys2Proof.Machine
end

