-- ==== Sys2Proof/Machine/Ops.lean ====
section
/-! DEFINITION. The shared operations: the event primitives of spec/00_scope.md R11, Setup and the transaction of
spec/43_flash_driver.md R180, the chunk loop of spec/41_serial_framing.md R146 and R147, the busy-wait of spec/44_busy_wait.md,
the continuations of R33, and reset (spec/70_reset_and_hazards.md R280). The block takes no exception and returns from none
(R250, R260): reset is its only asynchronous entry. -/

namespace Sys2Proof.Machine

/-! ### Event primitives (R11, R44) -/

/-- `b <- RxByte()`, then `k b`. With the queue empty the block has no step: the state is as it was (R44, R252; log 1). -/
def State.rxByte (s : State) (k : Byte → State → State) : State :=
  match s.rxq with
  | [] => s
  | b :: q => k b ((s.setRxq q).log (.rx b))

/-- `TxByte(v)`, then `k`. While the transport does not accept, the block has no step: the state is as it was, and the byte
stays offered (R44, R143, R252; D12, log 24). -/
def State.txByte (s : State) (v : Byte) (k : State → State) : State :=
  if s.txReady then k (s.log (.tx v)) else s

/-- `Wait(kind)`: one event, no time (R11, D25). -/
def State.wait (s : State) (w : WaitKind) : State := s.log (.wait w)

/-- `CsAssert()` with `cs_active <- true` (R180). -/
def State.csAssert (s : State) : State :=
  ((s.setChip s.chip.select).setCs true).log .csAssert

/-- `CsDeassert()` with `cs_active <- false` (R180). -/
def State.csDeassert (s : State) : State :=
  ((s.setChip (s.chip.deselect s.hist)).setCs false).log .csDeassert

/-- What the chip answers to `Xfer(o)` now (R42). -/
def State.answer (s : State) (o : Byte) : Byte := (s.chip.exchange s.hist o).1

/-- `Xfer(o)` (R181): the state after the exchange; the byte captured is `s.answer o`. -/
def State.xfer (s : State) (o : Byte) : State :=
  (s.setChip (s.chip.exchange s.hist o).2).log (.xfer o (s.answer o))

/-! ### Setup and the transaction (R180) -/

/-- The number a free `xdst` stands for (log 16). -/
def dstOf (n : Fin 3) : Dst :=
  if n = 0 then .buf else if n = 1 then .jedec else .sr

/-- `Setup(op, has_addr, a, npay, nresp, dst, ret)` of R180: writes the descriptor and goes to `X_CSON`. `none` is the `-` of
R186 to R191: the spec gives no value, so a free one is written (log 16). -/
def State.setup (s : State) (op : Byte) (a : Option BusAddr) (npay nresp : Count) (dst : Option Dst) (ret : Ret) : State :=
  (s.setDescriptor op a.isSome (a.getD (Config.dashAddr s.hist.length)) npay nresp
    (dst.getD (dstOf (Config.dashDst s.hist.length))) ret).goto .xCsOn

/-- R186: `Setup(0x9F, false, -, 0, 3, JEDEC, D_ID_DONE)`. -/
def State.setupRdid (s : State) : State := s.setup 0x9F#8 none 0 3 (some .jedec) .dIdDone

/-- R187: `Setup(0x03, true, addr[23:0], 0, chunk, BUF, RD_DONE)`. -/
def State.setupRead (s : State) : State := s.setup 0x03#8 (some (busAddr s.addr)) 0 s.chunk (some .buf) .rdDone

/-- R188: `Setup(0x06, false, -, 0, 0, -, ret)` with `ret` = `W_WREN_DONE` or `E_WREN_DONE`. -/
def State.setupWren (s : State) (c : WriteClass) : State :=
  s.setup 0x06#8 none 0 0 none (match c with | .w => .wWrenDone | .e => .eWrenDone)

/-- R189: `Setup(0x02, true, addr[23:0], chunk, 0, -, W_PP_DONE)`. -/
def State.setupPp (s : State) : State := s.setup 0x02#8 (some (busAddr s.addr)) s.chunk 0 none .wPpDone

/-- R190: `Setup(0xC7, false, -, 0, 0, -, E_CE_DONE)`. -/
def State.setupCe (s : State) : State := s.setup 0xC7#8 none 0 0 none .eCeDone

/-- R191: `Setup(0x05, false, -, 0, 1, SR, POLL_DONE(c))`. -/
def State.setupRdsr (s : State) (c : WriteClass) : State := s.setup 0x05#8 none 0 1 (some .sr) (.pollDone c)

/-! ### The chunk loop (R146, R147) and the busy-wait (R232) -/

/-- `LoopHead(c)` (R146). -/
def State.loopHead (s : State) (c : Transfer) : State :=
  if s.rem = 0 then
    match c with
    | .r => s.goto .idle
    | .w => s.goto .ack2
  else
    match c with
    | .r => (s.setChunk (chunkOf s.rem)).setupRead
    | .w => (s.setChunk (chunkOf s.rem)).goto (.wIn 0)

/-- `Advance(c)` (R147): `addr` advances modulo 2^32 (D7, log 20), `rem` decreases by `chunk`. -/
def State.advance (s : State) (c : Transfer) : State :=
  ((s.setAddr (s.addr + s.chunk.setWidth 32)).setRem (s.rem - s.chunk.setWidth 32)).loopHead c

/-- `POLL_DONE(c)` (R232). A chip that never clears the bit hangs the block, which no state
marks (R233, R254, log 31): `State.observed` of Safety.lean does. -/
def State.pollDone (s : State) (c : WriteClass) : State :=
  if s.busyFlag then s.goto (.pollWait c)
  else
    match c with
    | .w => s.advance .w
    | .e => s.goto .eAck

/-- The continuation `xret` (R33): what the command does after the transaction's `CsDeassert()`. -/
def State.continueAt (s : State) : State :=
  match s.xret with
  | .rdDone => s.goto (.rOut 0)
  | .wWrenDone => s.goto (.gap .w)
  | .wPpDone => s.setupRdsr .w
  | .eWrenDone => s.goto (.gap .e)
  | .eCeDone => s.setupRdsr .e
  | .dIdDone => (s.setCap (decodeCapacity s.jedec[0] s.jedec[1] s.jedec[2])).goto (.dOut 0)
  | .pollDone c => s.pollDone c

/-! ### The phases of a transaction (R180) -/

/-- `After(PAY)`. -/
def State.afterPay (s : State) : Phase := if 0 < s.xnresp.toNat then .xResp 0 else .xCsOff

/-- `After(ADDR)`. -/
def State.afterAddr (s : State) : Phase := if 0 < s.xnpay.toNat then .xPay 0 else s.afterPay

/-- `After(OP)`. -/
def State.afterOp (s : State) : Phase := if s.xhasAddr then .xAddr 0 else s.afterAddr

/-- A response byte lands where `xdst` says (R180, D17). -/
def State.capture (s : State) (i : Fin 256) (v : Byte) : State :=
  match s.xdst with
  | .buf => s.setBuf i v
  | .jedec => s.setJedec i.val v
  | .sr => s.setSr v

/-- `X_CSON`. -/
def State.evCsOn (s : State) : State := s.csAssert.goto .xOp

/-- `X_OP`. -/
def State.evOp (s : State) : State := (s.xfer s.xop).goto s.afterOp

/-- `X_ADDR(k)`. -/
def State.evAddr (s : State) (k : Fin 3) : State :=
  (s.xfer (beByte24 s.xaddr k.val)).goto
    (match nextIndex k 3 with
      | some k' => .xAddr k'
      | none => s.afterAddr)

/-- `X_PAY(i)`: the payload bytes are always `buf[0 .. xnpay−1]` (R30). -/
def State.evPay (s : State) (i : Fin 256) : State :=
  (s.xfer s.buf[i.val]).goto
    (match nextIndex i s.xnpay.toNat with
      | some i' => .xPay i'
      | none => s.afterPay)

/-- `X_RESP(i)`: output 0x00 (R184), input captured. -/
def State.evResp (s : State) (i : Fin 256) : State :=
  ((s.xfer 0x00#8).capture i (s.answer 0x00#8)).goto
    (match nextIndex i s.xnresp.toNat with
      | some i' => .xResp i'
      | none => .xCsOff)

/-- `X_CSOFF`. -/
def State.evCsOff (s : State) : State := s.csDeassert.continueAt

/-! ### The phases of the commands -/

/-- `IDLE` with the tag of the instruction `i` at the head of the queue: take it (R120, R121), then `k`. -/
def State.takeTag (s : State) (i : Instr) (k : State → State) : Out :=
  match s.rxq with
  | [] => .next s
  | b :: q => if decodeTag b = i then .next (k ((s.setRxq q).log (.rx b))) else .refused .notInProgress

/-- `PARAM(c, k)` (R141). -/
def State.evParam (s : State) (c : Transfer) (k : Fin 8) : State :=
  s.rxByte fun b s =>
    let s := if k.val < 4 then s.setAddr (setByte s.addr k.val b) else s.setRem (setByte s.rem (k.val - 4) b)
    match nextIndex k 8 with
    | some k' => s.goto (.param c k')
    | none => s.goto (.ack1 c)

/-- `ACK1(c)` (R205, R210). -/
def State.evAck1 (s : State) (c : Transfer) : State := s.txByte Config.ack fun s => s.loopHead c

/-- `R_OUT(i)` (R206). -/
def State.evROut (s : State) (i : Fin 256) : State :=
  s.txByte s.buf[i.val] fun s =>
    match nextIndex i s.chunk.toNat with
    | some i' => s.goto (.rOut i')
    | none => s.advance .r

/-- `W_IN(i)` (R211). -/
def State.evWIn (s : State) (i : Fin 256) : State :=
  s.rxByte fun b s =>
    let s := s.setBuf i b
    match nextIndex i s.chunk.toNat with
    | some i' => s.goto (.wIn i')
    | none => s.setupWren .w

/-- `GAP(c)` (R212, R216). -/
def State.evGap (s : State) (c : WriteClass) : State :=
  match c with
  | .w => (s.wait .wrenGap).setupPp
  | .e => (s.wait .wrenGap).setupCe

/-- `POLL_WAIT(c)` (R231). -/
def State.evPollWait (s : State) (c : WriteClass) : State := (s.wait .poll).setupRdsr c

/-- `ACK2` (R213) and `E_ACK` (R217): the acknowledgement, then `IDLE`. -/
def State.evFinalAck (s : State) : State := s.txByte Config.ack fun s => s.goto .idle

/-- `D_OUT(k)` (R221). -/
def State.evDOut (s : State) (k : Fin 7) : State :=
  s.txByte (s.detectByte k) fun s =>
    match nextIndex k 7 with
    | some k' => s.goto (.dOut k')
    | none => s.goto .idle

/-! ### Reset (R280, R281, R46) -/

/-- A cycle with `rst = 1`: the block as `State.reset` has it (log 8), chip-select released, whatever was in progress abandoned. The
history, the host and the chip are not the block's: the queue is flushed or kept as RX_FLUSH_ON_RESET says (R283), and a
transaction that was open is cut short (R281). -/
def State.resetStep (s : State) : State :=
  { State.reset with
    rst := s.rst
    txReady := s.txReady
    rxq := if Config.rxFlushOnReset then [] else s.rxq
    inputs := s.inputs
    chip := if s.csActive then s.chip.cutShort else s.chip
    hist := s.hist ++ [.reset] }

end Sys2Proof.Machine
end

