-- ==== Sys2Proof/Machine/BusTransactions.lean ====
section
/-! DEFINITION. The meanings of the six bus transactions (spec/43_flash_driver.md R186 to R191). A transaction is the sequence
of bus events of R180 over the descriptor that its Setup wrote; a meaning performs the next one. Which transaction is in
progress is what `xop` says (R30). -/

namespace Sys2Proof.Machine

/-- The next event of the transaction in progress (R180), where it is an execution of the instruction `i`; otherwise it is
not that instruction's turn (log 2). -/
def State.transact (s : State) (i : Instr) : Out :=
  if s.xop = opcodeOf i then
    match s.phase with
    | .idle => .refused .notInProgress
    | .param _ _ => .refused .notInProgress
    | .ack1 _ => .refused .notInProgress
    | .rOut _ => .refused .notInProgress
    | .wIn _ => .refused .notInProgress
    | .gap _ => .refused .notInProgress
    | .pollWait _ => .refused .notInProgress
    | .ack2 => .refused .notInProgress
    | .eAck => .refused .notInProgress
    | .dOut _ => .refused .notInProgress
    | .xCsOn => .next s.evCsOn
    | .xOp => .next s.evOp
    | .xAddr k => .next (s.evAddr k)
    | .xPay j => .next (s.evPay j)
    | .xResp j => .next (s.evResp j)
    | .xCsOff => .next s.evCsOff
  else .refused .notInProgress

/-- BUS_RDID, 0x9F: three response bytes into `jedec`, then the capacity decode (R186, R220). -/
def execBusRdid (s : State) : Out := s.transact .busRdid

/-- BUS_READ, 0x03: the address, then `chunk` response bytes into `buf`, then `R_OUT(0)` (R187). -/
def execBusRead (s : State) : Out := s.transact .busRead

/-- BUS_WREN, 0x06 alone, then the gap (R188). -/
def execBusWren (s : State) : Out := s.transact .busWren

/-- BUS_PP, 0x02: the address and the `chunk` payload bytes of `buf`, then the first poll (R189). -/
def execBusPp (s : State) : Out := s.transact .busPp

/-- BUS_CE, 0xC7 alone, then the first poll (R190). -/
def execBusCe (s : State) : Out := s.transact .busCe

/-- BUS_RDSR, 0x05: one response byte into `sr`, then the test of bit 0 (R191, R232). -/
def execBusRdsr (s : State) : Out := s.transact .busRdsr

end Sys2Proof.Machine
end

