-- ==== Sys2Proof/Machine/HostCommands.lean ====
section
/-! DEFINITION. The meanings of the host commands R, W, E, D and of an unknown tag (spec/40_dispatcher.md R124 to R128,
spec/43_flash_driver.md R204 to R221). A command is a sequence of events; a meaning performs the next one, which the phase
names (R44). A phase of another instruction is refused by name: it is not this instruction's turn (log 2). -/

namespace Sys2Proof.Machine

/-- `R`: the tag, eight parameter bytes, the acknowledgement, and each chunk's bytes to the host (R124, R204). The chunks' Read
Data transactions are the instruction BUS_READ. -/
def execRead (s : State) : Out :=
  match s.phase with
  | .idle => s.takeTag .read fun s => s.goto (.param .r 0)
  | .param .r k => .next (s.evParam .r k)
  | .param .w _ => .refused .notInProgress
  | .ack1 .r => .next (s.evAck1 .r)
  | .ack1 .w => .refused .notInProgress
  | .rOut i => .next (s.evROut i)
  | .wIn _ => .refused .notInProgress
  | .gap _ => .refused .notInProgress
  | .pollWait _ => .refused .notInProgress
  | .ack2 => .refused .notInProgress
  | .eAck => .refused .notInProgress
  | .dOut _ => .refused .notInProgress
  | .xCsOn => .refused .notInProgress
  | .xOp => .refused .notInProgress
  | .xAddr _ => .refused .notInProgress
  | .xPay _ => .refused .notInProgress
  | .xResp _ => .refused .notInProgress
  | .xCsOff => .refused .notInProgress

/-- `W`: the tag, eight parameter bytes, the opening acknowledgement, each chunk's payload from the host, the gap before
its Page Program, the delay between its polls, and the closing acknowledgement (R125, R210 to R213). -/
def execWrite (s : State) : Out :=
  match s.phase with
  | .idle => s.takeTag .write fun s => s.goto (.param .w 0)
  | .param .r _ => .refused .notInProgress
  | .param .w k => .next (s.evParam .w k)
  | .ack1 .r => .refused .notInProgress
  | .ack1 .w => .next (s.evAck1 .w)
  | .rOut _ => .refused .notInProgress
  | .wIn i => .next (s.evWIn i)
  | .gap .w => .next (s.evGap .w)
  | .gap .e => .refused .notInProgress
  | .pollWait .w => .next (s.evPollWait .w)
  | .pollWait .e => .refused .notInProgress
  | .ack2 => .next s.evFinalAck
  | .eAck => .refused .notInProgress
  | .dOut _ => .refused .notInProgress
  | .xCsOn => .refused .notInProgress
  | .xOp => .refused .notInProgress
  | .xAddr _ => .refused .notInProgress
  | .xPay _ => .refused .notInProgress
  | .xResp _ => .refused .notInProgress
  | .xCsOff => .refused .notInProgress

/-- `E`: the tag, which sets up the Write Enable transaction, the gap before Chip Erase, the delay between polls, and the
acknowledgement (R126, R216, R217). -/
def execErase (s : State) : Out :=
  match s.phase with
  | .idle => s.takeTag .erase fun s => s.setupWren .e
  | .param _ _ => .refused .notInProgress
  | .ack1 _ => .refused .notInProgress
  | .rOut _ => .refused .notInProgress
  | .wIn _ => .refused .notInProgress
  | .gap .w => .refused .notInProgress
  | .gap .e => .next (s.evGap .e)
  | .pollWait .w => .refused .notInProgress
  | .pollWait .e => .next (s.evPollWait .e)
  | .ack2 => .refused .notInProgress
  | .eAck => .next s.evFinalAck
  | .dOut _ => .refused .notInProgress
  | .xCsOn => .refused .notInProgress
  | .xOp => .refused .notInProgress
  | .xAddr _ => .refused .notInProgress
  | .xPay _ => .refused .notInProgress
  | .xResp _ => .refused .notInProgress
  | .xCsOff => .refused .notInProgress

/-- `D`: the tag, which sets up the Read JEDEC ID transaction, and the seven response bytes (R127, R219, R221). -/
def execDetect (s : State) : Out :=
  match s.phase with
  | .idle => s.takeTag .detect fun s => s.setupRdid
  | .param _ _ => .refused .notInProgress
  | .ack1 _ => .refused .notInProgress
  | .rOut _ => .refused .notInProgress
  | .wIn _ => .refused .notInProgress
  | .gap _ => .refused .notInProgress
  | .pollWait _ => .refused .notInProgress
  | .ack2 => .refused .notInProgress
  | .eAck => .refused .notInProgress
  | .dOut k => .next (s.evDOut k)
  | .xCsOn => .refused .notInProgress
  | .xOp => .refused .notInProgress
  | .xAddr _ => .refused .notInProgress
  | .xPay _ => .refused .notInProgress
  | .xResp _ => .refused .notInProgress
  | .xCsOff => .refused .notInProgress

/-- An unknown tag: consumed and discarded, `phase <- IDLE`, nothing else (R128, R255). -/
def execUnknown (tag : Byte) (s : State) : Out :=
  match s.phase with
  | .idle => s.takeTag (.unknown tag) fun s => s.goto .idle
  | .param _ _ => .refused .notInProgress
  | .ack1 _ => .refused .notInProgress
  | .rOut _ => .refused .notInProgress
  | .wIn _ => .refused .notInProgress
  | .gap _ => .refused .notInProgress
  | .pollWait _ => .refused .notInProgress
  | .ack2 => .refused .notInProgress
  | .eAck => .refused .notInProgress
  | .dOut _ => .refused .notInProgress
  | .xCsOn => .refused .notInProgress
  | .xOp => .refused .notInProgress
  | .xAddr _ => .refused .notInProgress
  | .xPay _ => .refused .notInProgress
  | .xResp _ => .refused .notInProgress
  | .xCsOff => .refused .notInProgress

end Sys2Proof.Machine
end

