-- ==== Sys2Proof/Machine/Dispatch.lean ====
section
/-! DEFINITION. One arm per instruction. -/

namespace Sys2Proof.Machine

/-- The next event of an instruction. -/
def exec (i : Instr) (s : State) : Host.Outcome State Fault Refusal :=
  match i with
  | .read => Sys2Proof.Machine.execRead s
  | .write => Sys2Proof.Machine.execWrite s
  | .erase => Sys2Proof.Machine.execErase s
  | .detect => Sys2Proof.Machine.execDetect s
  | .unknown tag => Sys2Proof.Machine.execUnknown tag s
  | .busRdid => Sys2Proof.Machine.execBusRdid s
  | .busRead => Sys2Proof.Machine.execBusRead s
  | .busWren => Sys2Proof.Machine.execBusWren s
  | .busPp => Sys2Proof.Machine.execBusPp s
  | .busCe => Sys2Proof.Machine.execBusCe s
  | .busRdsr => Sys2Proof.Machine.execBusRdsr s

end Sys2Proof.Machine
end

