-- ==== Sys2Proof/Machine/Fetch.lean ====
section
/-! DEFINITION. What a step does around the event: the host's input (spec/10_state.md R43, R44), the overrun (spec/60_exceptions.md
R253), and which instruction the phase names. -/

namespace Sys2Proof.Machine

/-- The bytes the host delivers join the queue, oldest first; `none` when one arrives while the queue holds RX_DEPTH bytes
(R43, R253). -/
def State.deliver (s : State) : List Byte → Option State
  | [] => some s
  | b :: bs => if s.rxq.length < Config.rxDepth then State.deliver (s.setRxq (s.rxq ++ [b])) bs else none

/-- The host's part of a step: the next entry of its schedule sets the input ports and delivers its bytes, before the step's
event (log 6, log 32). When the schedule has ended the ports keep their levels and nothing arrives. -/
def State.latch (s : State) : Option State :=
  match s.inputs with
  | [] => some s
  | x :: rest => (s.setPorts x rest).deliver x.arrive

/-- What the phase makes the step do. -/
inductive Fetched where
  /-- Perform the next event of this instruction. -/
  | instr (i : Instr)
  /-- `IDLE` with no byte: no step is enabled, the block waits (R120, R252). -/
  | waiting
  /-- A transaction phase whose opcode register holds none of the six opcodes (log 26). -/
  | noOpcode
  deriving DecidableEq, Repr

/-- The instruction the transaction phases run: the one of the opcode register (R30, R100). -/
def State.fetchBus (s : State) : Fetched :=
  match decodeBus s.xop with
  | .ok i => .instr i
  | .error _ => .noOpcode

/-- The instruction whose event the phase names (R22). In `IDLE` it is the one of the tag at the head of the queue (R121). -/
def State.fetch (s : State) : Fetched :=
  match s.phase with
  | .idle =>
    match s.rxq with
    | [] => .waiting
    | b :: _ => .instr (decodeTag b)
  | .param .r _ => .instr .read
  | .param .w _ => .instr .write
  | .ack1 .r => .instr .read
  | .ack1 .w => .instr .write
  | .rOut _ => .instr .read
  | .wIn _ => .instr .write
  | .gap .w => .instr .write
  | .gap .e => .instr .erase
  | .pollWait .w => .instr .write
  | .pollWait .e => .instr .erase
  | .ack2 => .instr .write
  | .eAck => .instr .erase
  | .dOut _ => .instr .detect
  | .xCsOn => s.fetchBus
  | .xOp => s.fetchBus
  | .xAddr _ => s.fetchBus
  | .xPay _ => s.fetchBus
  | .xResp _ => s.fetchBus
  | .xCsOff => s.fetchBus

/-- The bytes of a host instruction whose tag is `w`'s first byte, the parameters taken from the further bits of `w` (R93): an R
or W frame has 8 parameter bytes after the tag, every other frame is the tag alone. -/
def frameBytes (w : Nat) : List Byte :=
  match decodeTag (BitVec.ofNat 8 w) with
  | .read => (List.range 9).map fun k => BitVec.ofNat 8 (w >>> (8 * k))
  | .write => (List.range 9).map fun k => BitVec.ofNat 8 (w >>> (8 * k))
  | _ => [BitVec.ofNat 8 w]

/-- The count a placed Read Data or Page Program moves: `chunk`, or 1 where `chunk` is 0, since these transactions move at
least one byte (R68). -/
def State.placedCount (s : State) : Count := if s.chunk = 0 then 1 else s.chunk

/-- The state in which a bus transaction of the instruction `i` is about to begin: its Setup (R186 to R191) has been done, as by
Erase where two commands share it. -/
def State.placeBus (s : State) : Instr → State
  | .busRdid => s.setupRdid
  | .busRead => s.setup 0x03#8 (some (busAddr s.addr)) 0 s.placedCount (some .buf) .rdDone
  | .busWren => s.setupWren .e
  | .busPp => s.setup 0x02#8 (some (busAddr s.addr)) s.placedCount 0 none .wPpDone
  | .busCe => s.setupCe
  | .busRdsr => s.setupRdsr .e
  | .read => s
  | .write => s
  | .erase => s
  | .detect => s
  | .unknown _ => s

/-- An instruction stored where the next step fetches it: a host command in the receive queue with the block in `IDLE`, a bus
transaction in the descriptor with the block at `X_CSON`; `rst` low, chip-select released, and no host input that could come
first. Log 5. -/
def State.placeWord (s : State) (w : Nat) : State :=
  let s0 := (s.setPorts { rst := false, txReady := s.txReady, arrive := [] } []).setCs false
  match decodeBus (BitVec.ofNat 8 w) with
  | .ok i => s0.placeBus i
  | .error _ => (s0.setRxq (frameBytes w)).goto .idle

end Sys2Proof.Machine
end

