-- ==== Sys2Proof/Machine/Step.lean ====
section
/-! DEFINITION. One step of the machine: the host's input, then reset if `rst` is high (spec/60_exceptions.md R259), else the one
event the phase names (spec/10_state.md R44). -/

namespace Sys2Proof.Machine

/-- The step after the host's input has been read. -/
def State.act (s : State) : Host.Outcome State Fault Refusal :=
  if s.rst then .next s.resetStep
  else
    match s.fetch with
    | .instr i => exec i s
    | .waiting => .next s
    | .noOpcode => .refused .noBusOpcode

/-- One step (R44). -/
def step (s : State) : Host.Outcome State Fault Refusal :=
  match s.latch with
  | some s' => s'.act
  | none => .fault .rxOverrun

/-- The instruction of a table word stored where `step` fetches its next instruction (log 5). -/
def State.withFetchWord (s : State) (_nbits w : Nat) : State := s.placeWord w

end Sys2Proof.Machine
end

