-- ==== Sys2Proof/Machine/Spi.lean ====
section
/-! DEFINITION. The bit level of one exchange (spec/20_memory.md R62, spec/43_flash_driver.md R181, spec/10_state.md R34): the shift
register and its eight cycles, and the levels of `sclk` and `mosi`. The step works on bytes; these functions say what the bits of
an `Xfer` are (log 18). -/

namespace Sys2Proof.Machine

/-- The bits of a byte, most significant first (R62). -/
def bitsMsbFirst (b : Byte) : List Bool :=
  [b.getLsbD 7, b.getLsbD 6, b.getLsbD 5, b.getLsbD 4, b.getLsbD 3, b.getLsbD 2, b.getLsbD 1, b.getLsbD 0]

/-- One cycle of the shift register (R34): its top bit goes out on `mosi`, the bit on `miso` comes in at the bottom. -/
def shiftCycle (reg : Byte) (miso : Bool) : Bool × Byte :=
  (reg.getLsbD 7, (reg <<< 1) ||| (if miso then 0x01#8 else 0x00#8))

/-- A run of cycles, one per `miso` bit: the bits sent, and the register at the end. -/
def shiftBits (reg : Byte) : List Bool → List Bool × Byte
  | [] => ([], reg)
  | m :: ms =>
    let c := shiftCycle reg m
    let r := shiftBits c.2 ms
    (c.1 :: r.1, r.2)

/-- One `Xfer(o)` at bit level while the chip sends `i`: the eight bits on `mosi`, and the byte captured. -/
def exchangeBits (o i : Byte) : List Bool × Byte := shiftBits o (bitsMsbFirst i)

/-- The idle level of `sclk` in an SPI mode, its clock polarity: "0 for mode 0" (R46). Which modes idle high is PRESUMED (the
SPI convention, modes 2 and 3), log 18. -/
def sclkIdle (mode : Fin 4) : Bool := decide (2 ≤ mode.val)

/-- The (`sclk`, `mosi`) levels of one exchange, two half-cycles a bit. In mode 0 `sclk` idles low, `mosi` changes while it is
low and `miso` is sampled on the rising edge (R181); the modes with clock phase 1 move `sclk` first. PRESUMED for modes 1 to 3,
log 18. -/
def xferWave (mode : Fin 4) (o : Byte) : List (Bool × Bool) :=
  (bitsMsbFirst o).flatMap fun b =>
    if mode.val % 2 = 0 then [(sclkIdle mode, b), (!sclkIdle mode, b)]
    else [(!sclkIdle mode, b), (sclkIdle mode, b)]

/-- The bits on `mosi` over a history: those of its exchanges (R45, R181). -/
def mosiBits (h : List Event) : List Bool :=
  h.flatMap fun e =>
    match e with
    | .xfer o _ => bitsMsbFirst o
    | _ => []

end Sys2Proof.Machine
end

