-- ==== Sys2Proof/Machine/Ports.lean ====
section
/-! DEFINITION. The interface ports of spec/10_state.md R20 between two events, as functions of the state: what the outside sees
of the phase, of `cs_active` and of the receive queue. A level the spec leaves unspecified is a free value (log 17). -/

namespace Sys2Proof.Machine

/-- The phases whose event is `RxByte()` (R22). -/
def Phase.takesByte : Phase → Bool
  | .idle => true
  | .param .r _ => true
  | .param .w _ => true
  | .ack1 _ => false
  | .rOut _ => false
  | .wIn _ => true
  | .gap _ => false
  | .pollWait _ => false
  | .ack2 => false
  | .eAck => false
  | .dOut _ => false
  | .xCsOn => false
  | .xOp => false
  | .xAddr _ => false
  | .xPay _ => false
  | .xResp _ => false
  | .xCsOff => false

/-- The ports of R20, but for `clk`, `rst` and `tx_ready`, which are inputs the state holds or does not need. -/
structure Ports where
  rxValid : Bool
  rxData : Option Byte
  rxReady : Bool
  txValid : Bool
  txData : Byte
  csN : Bool
  sclk : Bool
  mosi : Bool
  deriving DecidableEq, Repr

/-- The levels of the ports. In a cycle with `rst = 1`, `tx_valid` and `rx_ready` are 0 (R280); `cs_n` is `¬cs_active` (R31);
`sclk` idles between events (R181). `rx_ready` is 1 where the phase takes a byte and one is there (R46). -/
def State.ports (s : State) : Ports where
  rxValid := !s.rxq.isEmpty
  rxData := s.rxq.head?
  rxReady := !s.rst && s.phase.takesByte && !s.rxq.isEmpty
  txValid := !s.rst && s.offered.isSome
  txData := if s.rst then Config.idleTxData s.hist.length else s.offered.getD (Config.idleTxData s.hist.length)
  csN := !s.csActive
  sclk := sclkIdle Config.spiMode
  mosi := Config.idleMosi s.hist.length

end Sys2Proof.Machine
end

