-- ==== Sys2Proof/Safety.lean ====
section
/-! DEFINITION. The terms claims are stated in: runs of steps, the invariant of the block (what the phase says of the registers),
the monitor that reads an event history by spec/20_memory.md R76 and spec/43_flash_driver.md R182, R185, R192 and R224, the
event traces of spec/43_flash_driver.md, and what is observed of a command: that it returns, or how it fails (spec/60_exceptions.md
R252 to R254, spec/70_reset_and_hazards.md R295). -/

namespace Sys2Proof.Machine

/-! ### Runs -/

/-- `n` steps, stopping at the first fault or refusal. -/
def run (n : Nat) (s : State) : Out := Host.Core.run Sys2Proof.core n s

/-- The host is quiet and accepting: no more schedule, `rst` low, `tx_ready` high. -/
def State.quiet (s : State) : Prop := s.inputs = [] ∧ s.rst = false ∧ s.txReady = true

/-- A state that could have just left reset: `State.reset` with any bytes queued, any schedule of the host and any chip. -/
def State.boot (rxq : List Byte) (inputs : List HostInput) (chip : Chip) : State :=
  { State.reset with rxq := rxq, inputs := inputs, chip := chip }

/-! ### What the phase says of the registers -/

/-- The phases in which chip-select is active: "`X_OP .. X_CSOFF`" (R182). -/
def Phase.selected : Phase → Bool
  | .idle => false
  | .param _ _ => false
  | .ack1 _ => false
  | .rOut _ => false
  | .wIn _ => false
  | .gap _ => false
  | .pollWait _ => false
  | .ack2 => false
  | .eAck => false
  | .dOut _ => false
  | .xCsOn => false
  | .xOp => true
  | .xAddr _ => true
  | .xPay _ => true
  | .xResp _ => true
  | .xCsOff => true

/-- The phases of a transaction, `X_CSON` among them (R22). -/
def Phase.onBus (p : Phase) : Bool := decide (p = .xCsOn) || p.selected

/-- A chunk is in progress: `chunk` is `min(rem, 256)` of a remainder that is not 0 (R25, R146). -/
def State.chunkOk (s : State) : Prop := s.rem ≠ 0 ∧ s.chunk = chunkOf s.rem

/-- The descriptor is one the block sets up: one of the six of R186 to R191 with its operands, and for a transaction of a chunk,
that chunk (R30, R101, R192). -/
def State.descriptorOk (s : State) : Prop :=
  (s.xop = 0x9F#8 ∧ s.xhasAddr = false ∧ s.xnpay = 0 ∧ s.xnresp = 3 ∧ s.xdst = .jedec ∧ s.xret = .dIdDone) ∨
  (s.xop = 0x03#8 ∧ s.xhasAddr = true ∧ s.xaddr = busAddr s.addr ∧ s.xnpay = 0 ∧ s.xnresp = s.chunk ∧ s.xdst = .buf ∧
    s.xret = .rdDone ∧ s.chunkOk) ∨
  (s.xop = 0x06#8 ∧ s.xhasAddr = false ∧ s.xnpay = 0 ∧ s.xnresp = 0 ∧
    (s.xret = .eWrenDone ∨ s.xret = .wWrenDone ∧ s.chunkOk)) ∨
  (s.xop = 0x02#8 ∧ s.xhasAddr = true ∧ s.xaddr = busAddr s.addr ∧ s.xnpay = s.chunk ∧ s.xnresp = 0 ∧
    s.xret = .wPpDone ∧ s.chunkOk) ∨
  (s.xop = 0xC7#8 ∧ s.xhasAddr = false ∧ s.xnpay = 0 ∧ s.xnresp = 0 ∧ s.xret = .eCeDone) ∨
  (s.xop = 0x05#8 ∧ s.xhasAddr = false ∧ s.xnpay = 0 ∧ s.xnresp = 1 ∧ s.xdst = .sr ∧
    (s.xret = .pollDone .e ∨ s.xret = .pollDone .w ∧ s.chunkOk))

/-- What each phase says of the working registers. -/
def State.phaseOk (s : State) : Prop :=
  match s.phase with
  | .idle => True
  | .param _ _ => True
  | .ack1 _ => True
  | .rOut i => s.chunkOk ∧ i.val < s.chunk.toNat
  | .wIn i => s.chunkOk ∧ i.val < s.chunk.toNat
  | .gap .w => s.chunkOk
  | .gap .e => True
  | .pollWait .w => s.chunkOk ∧ s.busyFlag = true
  | .pollWait .e => s.busyFlag = true
  | .ack2 => s.rem = 0
  | .eAck => s.busyFlag = false
  | .dOut _ => s.cap = decodeCapacity s.jedec[0] s.jedec[1] s.jedec[2]
  | .xCsOn => s.descriptorOk
  | .xOp => s.descriptorOk
  | .xAddr _ => s.descriptorOk ∧ s.xhasAddr = true
  | .xPay i => s.descriptorOk ∧ i.val < s.xnpay.toNat
  | .xResp i => s.descriptorOk ∧ i.val < s.xnresp.toNat
  | .xCsOff => s.descriptorOk

/-- The address bytes of the transaction, if it has an address (R180). -/
def State.addrBytes (s : State) : List Byte := if s.xhasAddr then beBytes24 s.xaddr else []

/-- The payload bytes of the transaction, `buf[0 .. xnpay−1]` (R30). -/
def State.payload (s : State) : List Byte := s.buf.toList.take s.xnpay.toNat

/-- The bytes the transaction of the descriptor sends on MOSI (R99, R180). -/
def State.mosiBytes (s : State) : List Byte :=
  s.xop :: (s.addrBytes ++ s.payload ++ List.replicate s.xnresp.toNat 0x00#8)

/-- The bytes the transaction has sent when its next event is the phase's. -/
def State.sent (s : State) : List Byte :=
  match s.phase with
  | .idle => []
  | .param _ _ => []
  | .ack1 _ => []
  | .rOut _ => []
  | .wIn _ => []
  | .gap _ => []
  | .pollWait _ => []
  | .ack2 => []
  | .eAck => []
  | .dOut _ => []
  | .xCsOn => []
  | .xOp => []
  | .xAddr k => s.xop :: (beBytes24 s.xaddr).take k.val
  | .xPay i => s.xop :: (s.addrBytes ++ s.buf.toList.take i.val)
  | .xResp i => s.xop :: (s.addrBytes ++ s.payload ++ List.replicate i.val 0x00#8)
  | .xCsOff => s.mosiBytes

/-- A `RefChip` has received exactly the bytes the transaction in progress has sent. -/
def State.chipOk (s : State) : Prop :=
  match s.chip with
  | .oracle _ => True
  | .steady _ _ => True
  | .ref c => s.phase.selected = true → c.cmd = s.sent

/-- The invariant of the machine. -/
structure State.Inv (s : State) : Prop where
  /-- Chip-select is active exactly in `X_OP .. X_CSOFF` (R182). -/
  select : s.csActive = s.phase.selected
  /-- The phase's registers (R25, R30, R101, R192, R213, R217, R220). -/
  phase : s.phaseOk
  /-- The queue holds at most RX_DEPTH bytes (R43). -/
  queue : s.rxq.length ≤ Config.rxDepth
  /-- The flash array of a `RefChip` is in its canonical form. -/
  array : s.chip.wf = true
  /-- The chip has seen the bytes sent. -/
  chip : s.chipOk

/-! ### The monitor: what a history of events must keep to -/

/-- What the block owes the chip between two transactions. -/
inductive Duty where
  /-- Nothing: transport events, and the transactions 0x9F, 0x03, 0x06. -/
  | free
  /-- A Write Enable has ended: only `Wait(WREN_GAP)` may follow (R185). -/
  | armed
  /-- The gap is over: only a Page Program or a Chip Erase may follow (R185). -/
  | gapped
  /-- A write-class transaction has ended, or a poll delay: only a status poll may follow (R224). -/
  | poll
  /-- A poll read bit 0 set: only `Wait(POLL)` may follow (R230). -/
  | busy
  deriving DecidableEq, Repr

/-- Where the bus is. -/
inductive Bus where
  /-- Chip-select released. -/
  | released
  /-- Chip-select asserted, no byte exchanged. -/
  | opened
  /-- The opcode of the transaction, and the last byte received. -/
  | inside (op last : Byte)
  deriving DecidableEq, Repr

/-- A state of the monitor. -/
structure Mon where
  duty : Duty
  bus : Bus
  deriving DecidableEq, Repr

/-- The opcodes a duty allows (R185, R192, R224). -/
def Duty.allows : Duty → Byte → Bool
  | .free, op => op == 0x9F#8 || op == 0x03#8 || op == 0x06#8
  | .gapped, op => op == 0x02#8 || op == 0xC7#8
  | .poll, op => op == 0x05#8
  | _, _ => false

/-- The duty after a transaction with opcode `op` whose last byte received was `last`. -/
def dutyAfter (op last : Byte) : Duty :=
  if op = 0x06#8 then .armed
  else if op = 0x02#8 ∨ op = 0xC7#8 then .poll
  else if op = 0x05#8 then (if writeInProgress last then .busy else .free)
  else .free

/-- One event of a history: the next state of the monitor, or `none` where the event breaks a rule. Every `Xfer` happens with
chip-select active, no `RxByte`, `TxByte` or `Wait` does, asserts and deasserts alternate (R182); each write-class transaction
follows a Write Enable and its gap (R185) and is followed by status polls until one reads bit 0 clear (R224), with a
`Wait(POLL)` after each busy poll and none elsewhere (R230, R231; D8, log 21). A reset ends all of it (R280, R281; log 25). -/
def Mon.next (m : Mon) (e : Event) : Option Mon :=
  match e with
  | .rx _ => if m = ⟨.free, .released⟩ then some m else none
  | .tx _ => if m = ⟨.free, .released⟩ then some m else none
  | .wait .wrenGap => if m = ⟨.armed, .released⟩ then some ⟨.gapped, .released⟩ else none
  | .wait .poll => if m = ⟨.busy, .released⟩ then some ⟨.poll, .released⟩ else none
  | .csAssert =>
    match m with
    | ⟨.free, .released⟩ => some ⟨.free, .opened⟩
    | ⟨.gapped, .released⟩ => some ⟨.gapped, .opened⟩
    | ⟨.poll, .released⟩ => some ⟨.poll, .opened⟩
    | _ => none
  | .xfer o i =>
    match m with
    | ⟨d, .opened⟩ => if d.allows o then some ⟨d, .inside o i⟩ else none
    | ⟨d, .inside op _⟩ => some ⟨d, .inside op i⟩
    | _ => none
  | .csDeassert =>
    match m with
    | ⟨_, .inside op last⟩ => some ⟨dutyAfter op last, .released⟩
    | _ => none
  | .reset => some ⟨.free, .released⟩

/-- The monitor over a whole history, from power-on: `none` where an event breaks a rule. -/
def monitor (h : List Event) : Option Mon :=
  h.foldlM Mon.next ⟨.free, .released⟩

/-- The duty of the transaction whose opcode is `op`. -/
def dutyOf (op : Byte) : Duty :=
  if op = 0x02#8 ∨ op = 0xC7#8 then .gapped else if op = 0x05#8 then .poll else .free

/-- Where the monitor must be, from the phase. -/
def State.monOk (s : State) (m : Mon) : Prop :=
  match s.phase with
  | .gap _ => m = ⟨.armed, .released⟩
  | .pollWait _ => m = ⟨.busy, .released⟩
  | .xCsOn => m = ⟨dutyOf s.xop, .released⟩
  | .xOp => m = ⟨dutyOf s.xop, .opened⟩
  | .xAddr _ => ∃ i, m = ⟨dutyOf s.xop, .inside s.xop i⟩
  | .xPay _ => ∃ i, m = ⟨dutyOf s.xop, .inside s.xop i⟩
  | .xResp _ => ∃ i, m = ⟨dutyOf s.xop, .inside s.xop i⟩
  | .xCsOff => ∃ i, m = ⟨dutyOf s.xop, .inside s.xop i⟩ ∧ (s.xop = 0x05#8 → i = s.sr)
  | .idle => m = ⟨.free, .released⟩
  | .param _ _ => m = ⟨.free, .released⟩
  | .ack1 _ => m = ⟨.free, .released⟩
  | .rOut _ => m = ⟨.free, .released⟩
  | .wIn _ => m = ⟨.free, .released⟩
  | .ack2 => m = ⟨.free, .released⟩
  | .eAck => m = ⟨.free, .released⟩
  | .dOut _ => m = ⟨.free, .released⟩

/-- The history so far breaks no rule of the monitor, and the monitor is where the phase says. -/
def State.Disciplined (s : State) : Prop := ∃ m, monitor s.hist = some m ∧ s.monOk m

/-! ### The event a phase names (R22) -/

/-- The event `e` is the one the phase names: the table of R22. The answer of an exchange is the chip's. -/
def State.names (s : State) (e : Event) : Prop :=
  match s.phase with
  | .idle => ∃ b q, s.rxq = b :: q ∧ e = .rx b
  | .param _ _ => ∃ b q, s.rxq = b :: q ∧ e = .rx b
  | .wIn _ => ∃ b q, s.rxq = b :: q ∧ e = .rx b
  | .ack1 _ => e = .tx 0xAA#8
  | .ack2 => e = .tx 0xAA#8
  | .eAck => e = .tx 0xAA#8
  | .rOut i => e = .tx s.buf[i.val]
  | .dOut k => e = .tx (s.detectByte k)
  | .gap _ => e = .wait .wrenGap
  | .pollWait _ => e = .wait .poll
  | .xCsOn => e = .csAssert
  | .xOp => e = .xfer s.xop (s.answer s.xop)
  | .xAddr k => e = .xfer (beByte24 s.xaddr k.val) (s.answer (beByte24 s.xaddr k.val))
  | .xPay i => e = .xfer s.buf[i.val] (s.answer s.buf[i.val])
  | .xResp _ => e = .xfer 0x00#8 (s.answer 0x00#8)
  | .xCsOff => e = .csDeassert

/-- The phase's event is not enabled: a byte is awaited and none is there, or one is offered and not accepted (R44, R252). -/
def State.blocked (s : State) : Bool :=
  (s.phase.takesByte && s.rxq.isEmpty) || (s.offered.isSome && !s.txReady)

/-! ### Traces of whole transactions and commands -/

/-- The events of one transaction that sends `mosi` while the chip sends `miso` (R180). -/
def transactionTrace (mosi miso : List Byte) : List Event :=
  .csAssert :: (List.zipWith Event.xfer mosi miso ++ [.csDeassert])

/-- Response bytes landing one after another from index `i` on (R180). -/
def State.captureFrom (s : State) (i : Nat) : List Byte → State
  | [] => s
  | b :: bs => if h : i < 256 then State.captureFrom (s.capture ⟨i, h⟩ b) (i + 1) bs else s

/-- The bytes `rx` events take. -/
def rxTrace (bs : List Byte) : List Event := bs.map Event.rx

/-- The bytes `tx` events send. -/
def txTrace (bs : List Byte) : List Event := bs.map Event.tx

/-- A chip's answers to one status poll: during the opcode, and the status byte. -/
abbrev PollAnswer := Byte × Byte

/-- The answers to polls, as the bytes the chip sends. -/
def pollBytes (ps : List PollAnswer) : List Byte := ps.flatMap fun p => [p.1, p.2]

/-- Polls that read bit 0 set, each with the delay after it (R230). -/
def busyTrace (ps : List PollAnswer) : List Event :=
  ps.flatMap fun p => transactionTrace (encodeBusCmd .rdsr) [p.1, p.2] ++ [.wait .poll]

/-- A busy-wait: the busy polls, then the poll that reads bit 0 clear (R230, R232). -/
def busyWaitTrace (ps : List PollAnswer) (last : PollAnswer) : List Event :=
  busyTrace ps ++ transactionTrace (encodeBusCmd .rdsr) [last.1, last.2]

/-- Answers that make a busy-wait end: bit 0 set in every poll but the last, clear in the last. -/
def pollsEnd (ps : List PollAnswer) (last : PollAnswer) : Prop :=
  (∀ p ∈ ps, writeInProgress p.2 = true) ∧ writeInProgress last.2 = false

/-- The number of chunks of a transfer of length `l`: `(L + 255) div 256` (R148). -/
def chunkCount (l : Nat) : Nat := (l + 255) / 256

/-- The bytes the chip sends during a Read of length `l`: four a chunk during opcode and address, then the data (R297). -/
def readAnswers (l : Nat) : Nat := l + 4 * chunkCount l

/-- The events of a Read after its opening acknowledgement, `n` chunks from address `a` with `l` bytes left: per chunk one
Read Data transaction, then the chunk's bytes to the host (R204). -/
def readTrace : Nat → Word → Nat → List Byte → List Event
  | 0, _, _, _ => []
  | n + 1, a, l, ans =>
    let size := min l 256
    transactionTrace (encodeBusCmd (.read (busAddr a) size)) (ans.take (size + 4)) ++
      txTrace ((ans.take (size + 4)).drop 4) ++
      readTrace n (a + BitVec.ofNat 32 size) (l - size) (ans.drop (size + 4))

/-- The data bytes among a chip's answers to a Read of `n` chunks. -/
def readData : Nat → Nat → List Byte → List Byte
  | 0, _, _ => []
  | n + 1, l, ans =>
    (ans.take (min l 256 + 4)).drop 4 ++ readData n (l - min l 256) (ans.drop (min l 256 + 4))

/-- A chip's answers during one chunk of a Write: to Write Enable, to Page Program, and to the polls. -/
structure ChunkAnswers where
  wren : Byte
  program : List Byte
  busy : List PollAnswer
  last : PollAnswer
  deriving DecidableEq, Repr

/-- The bytes the chip sends during one chunk of a Write. -/
def ChunkAnswers.bytes (c : ChunkAnswers) : List Byte :=
  c.wren :: (c.program ++ pollBytes c.busy ++ [c.last.1, c.last.2])

/-- The events of a Write between its acknowledgements: per chunk the payload bytes, Write Enable, the gap, Page Program,
and the busy-wait (R210, R212). -/
def writeTrace : Word → List Byte → List ChunkAnswers → List Event
  | _, _, [] => []
  | a, payload, c :: cs =>
    let data := payload.take 256
    rxTrace data ++ transactionTrace (encodeBusCmd .wren) [c.wren] ++ [.wait .wrenGap] ++
      transactionTrace (encodeBusCmd (.program (busAddr a) data)) c.program ++ busyWaitTrace c.busy c.last ++
      writeTrace (a + BitVec.ofNat 32 data.length) (payload.drop 256) cs

/-- The answers fit a payload: one entry a chunk, a byte for each exchange of the Page Program, and polls that end. -/
def answersFit : List Byte → List ChunkAnswers → Prop
  | payload, [] => payload = []
  | payload, c :: cs =>
    payload ≠ [] ∧ c.program.length = (payload.take 256).length + 4 ∧ pollsEnd c.busy c.last ∧ answersFit (payload.drop 256) cs

/-- The least time a history takes: the lower bounds of its delays added up (R231, R285); nothing else is timed (R296). -/
def minDurationNs (h : List Event) : Nat :=
  (h.map fun e =>
    match e with
    | .wait k => Config.waitNs k
    | _ => 0).sum

/-- One transaction on a `RefChip`: selected, the bytes exchanged, released; the answers and the chip after it. -/
def RefChip.transaction (c : RefChip) (n : Nat) (mosi : List Byte) : List (Option Byte) × RefChip :=
  let r := mosi.foldl (fun p o => let x := p.2.exchange o; (p.1 ++ [x.1], x.2)) ([], c.select)
  (r.1, r.2.deselect n)

/-! ### What the outside sees -/

/-- Two states agree on everything but the working registers: the phase, chip-select, the input levels, the queue, the host's
schedule, the chip and the history. -/
def State.agree (s t : State) : Prop :=
  s.phase = t.phase ∧ s.csActive = t.csActive ∧ s.rst = t.rst ∧ s.txReady = t.txReady ∧ s.rxq = t.rxq ∧ s.inputs = t.inputs ∧
    s.chip = t.chip ∧ s.hist = t.hist

/-- Two outcomes look the same from outside: next states that agree and show the same levels at the ports, the byte offered at
`tx_data` among them; or the same stop. -/
def sameOutside : Out → Out → Prop
  | .next s, .next t => s.agree t ∧ s.ports = t.ports
  | .fault f, .fault g => f = g
  | .refused r, .refused q => r = q
  | _, _ => False

/-! ### What is observed of a command -/

/-- `e` is the execution without end from `s`: it never stops at a fault or a refusal (R44). -/
def State.execution (s : State) (e : Nat → State) : Prop := e 0 = s ∧ ∀ n, step (e n) = .next (e (n + 1))

/-- The execution is weakly fair (D25, R254): after any step some event still takes place. The block takes every event that is
enabled, so an execution that is not is one in which it waits for the host for ever, without an enabled step (R252). -/
def WeaklyFair (e : Nat → State) : Prop := ∀ n, ∃ m, n ≤ m ∧ (e (m + 1)).hist ≠ (e m).hist

/-- The first premise of progress (R295): the host takes every byte the block offers, sooner or later, unless a reset ends the
offer (the last, log 35). -/
def HostAccepts (e : Nat → State) : Prop :=
  ∀ n, (e n).offered.isSome = true → ∃ m, n ≤ m ∧ (e (m + 1)).hist ≠ (e m).hist

/-- The second premise of progress (R295): after each write-class operation some poll reads bit 0 clear, sooner or later, unless a
reset ends the operation (the last, log 35). -/
def ChipClears (e : Nat → State) : Prop :=
  ∀ n c, (e n).phase = .pollWait c → ∃ m, n ≤ m ∧
    (((e m).phase = .xCsOff ∧ (e m).xret = .pollDone c ∧ (e m).busyFlag = false) ∨ (e m).phase = .idle)

/-- What is observed of the command that a state begins or has begun. -/
inductive Verdict where
  /-- It is back in IDLE, in this state, with no reset in the step. A block that rests in IDLE is observed so too: "the normal
  resting state, not an error" (R252; log 35). -/
  | returned (t : State)
  /-- A reset has put the block in IDLE, in this state: "Whatever command was in progress is abandoned with no acknowledgement"
  (R280, R292). That this is a verdict of its own is the model's choice (log 35). -/
  | abandoned (t : State)
  /-- The run is faulted for good (R253). -/
  | faulted (f : Fault)
  /-- The model refuses a step (log 26). -/
  | refused (r : Refusal)
  /-- It waits for the host for ever (R252). -/
  | stuck
  /-- It goes on for ever and never returns (R233, R254). -/
  | hung
  deriving DecidableEq, Repr

/-- The block has not been back in IDLE within the first `n` steps. -/
def State.goesOn (s : State) (n : Nat) : Prop := ∀ m t, m < n → run (m + 1) s = .next t → t.phase ≠ .idle

/-- The observation (R254, R295). A command that never returns has a verdict like any other, `hung` where its execution is weakly
fair, `stuck` where it is not: it is never a run that "has not finished yet". A command that reset abandons has not returned: the
spec gives it no class, and that it is `abandoned` is the model's choice (log 35); the level `rst` of the step that reaches IDLE
tells the two apart. -/
def State.observed (s : State) : Verdict → Prop
  | .returned t => ∃ n, s.goesOn n ∧ run (n + 1) s = .next t ∧ t.phase = .idle ∧ t.rst = false
  | .abandoned t => ∃ n, s.goesOn n ∧ run (n + 1) s = .next t ∧ t.phase = .idle ∧ t.rst = true
  | .faulted f => ∃ n, s.goesOn n ∧ run (n + 1) s = .fault f
  | .refused r => ∃ n, s.goesOn n ∧ run (n + 1) s = .refused r
  | .stuck => ∃ e, s.execution e ∧ (∀ n, (e (n + 1)).phase ≠ .idle) ∧ ¬ WeaklyFair e
  | .hung => ∃ e, s.execution e ∧ (∀ n, (e (n + 1)).phase ≠ .idle) ∧ WeaklyFair e

/-- A claim `P` about what a command leaves is met only by a command that returns; every other verdict is its failure: a hang (R254),
and an abandonment by reset too (log 35). -/
def State.succeeds (s : State) (P : State → Prop) : Prop := ∃ t, s.observed (.returned t) ∧ P t

end Sys2Proof.Machine
end

