-- ==== Sys2Proof/Certificates/Slice0/Obligations.lean ====
section
/-! DEFINITION. What is claimed of the machine, from the numbered rules of spec/. Titles, kinds and citations stand in
OBLIGATIONS.json. Free values (log 16, 17) are bound by "there is", never named. -/

open Sys2Proof Sys2Proof.Machine

/-! ### Encoding -/

/-- R91, R100: for every well-formed instruction, decoding its word gives it back; the tag decoder for the five host
instructions, the opcode decoder for the six bus instructions. -/
def Obligations.InstructionWordsRoundTrip : Prop :=
  ∀ i : Instr, i.wellFormed = true → decodeFor i (encode i) = .ok i

/-- R90 to R97: decoding an encoded well-formed frame gives back the frame with every operand, and the bytes after it. -/
def Obligations.FramesRoundTrip : Prop :=
  ∀ (f : Frame) (rest : List Byte), f.wellFormed = true → decodeFrame (encodeFrame f ++ rest) = .ok (f, rest)

/-- R96, R102: what a stream decodes to is well-formed, spells back exactly the bytes consumed, and is as long as R96 says. -/
def Obligations.DecodedFrameSpellsItsBytes : Prop :=
  ∀ (bs rest : List Byte) (f : Frame), decodeFrame bs = .ok (f, rest) →
    f.wellFormed = true ∧ bs = encodeFrame f ++ rest ∧ (encodeFrame f).length = f.length

/-- R99: the MOSI bytes of a well-formed bus transaction determine it, with its address and its byte count or payload. -/
def Obligations.BusTransactionsRoundTrip : Prop :=
  ∀ c : BusCmd, c.wellFormed = true → decodeBusCmd (encodeBusCmd c) = .ok c

/-- A few words written out from the spec's examples (R98, R124, R125, R140, R180, V10, V13), and the table's eleven rows.
The table's priority of the bus rows over UNKNOWN is the model's (log 4). -/
def Obligations.SpecExampleWordsDecode : Prop :=
  decodeFrame [0x52#8, 0x56#8, 0x34#8, 0x12#8, 0xAB#8, 0x02#8, 0x00#8, 0x00#8, 0x00#8] = .ok (.read 0xAB123456#32 2#32, []) ∧
  decodeFrame [0x57#8, 0x10#8, 0x00#8, 0x00#8, 0x00#8, 0x01#8, 0x00#8, 0x00#8, 0x00#8, 0x5A#8, 0x44#8] =
    .ok (.write 0x10#32 [0x5A#8], [0x44#8]) ∧
  decodeFrame [0x72#8, 0x45#8] = .ok (.unknown 0x72#8, [0x45#8]) ∧
  encodeBusCmd (.read 0x123456#24 2) = [0x03#8, 0x12#8, 0x34#8, 0x56#8, 0x00#8, 0x00#8] ∧
  [0x52, 0x57, 0x45, 0x44, 0x00, 0x9F, 0x03, 0x06, 0x02, 0xC7, 0x05].map (decodeTableWord 8) =
    [some .read, some .write, some .erase, some .detect, some (.unknown 0#8), some .busRdid, some .busRead, some .busWren,
      some .busPp, some .busCe, some .busRdsr]

/-- R91, R102: the four tags select their commands; every other byte value, 252 of them, is an unknown tag.
The byte values are ASCII, from general knowledge as R91 marks them (log 23). -/
def Obligations.TagMatchingIsExact : Prop :=
  decodeTag 0x52#8 = .read ∧ decodeTag 0x57#8 = .write ∧ decodeTag 0x45#8 = .erase ∧ decodeTag 0x44#8 = .detect ∧
  (∀ t : Byte, t ≠ 0x52#8 → t ≠ 0x57#8 → t ≠ 0x45#8 → t ≠ 0x44#8 → decodeTag t = .unknown t) ∧
  (List.range 256).countP (fun n => decodeTag (BitVec.ofNat 8 n) == .unknown (BitVec.ofNat 8 n)) = 252

/-- R60, R97, R144: a 32-bit host field is the number its four bytes spell, the first byte worth 1, the next 256, and so on; and
the bytes sent for a 32-bit value spell it the same way. -/
def Obligations.HostFieldsAreLittleEndian : Prop :=
  (∀ b0 b1 b2 b3 : Byte,
    (le32 b0 b1 b2 b3).toNat = b0.toNat + 256 * b1.toNat + 65536 * b2.toNat + 16777216 * b3.toNat) ∧
  ∀ v : Word, ∃ b0 b1 b2 b3 : Byte, leBytes32 v = [b0, b1, b2, b3] ∧
    v.toNat = b0.toNat + 256 * b1.toNat + 65536 * b2.toNat + 16777216 * b3.toNat

/-- R61, R101: the three address bytes of a transaction at host address `addr` spell `addr` modulo 2^24, most significant byte
first. -/
def Obligations.BusAddressIsBigEndian : Prop :=
  ∀ addr : Word, ∃ b2 b1 b0 : Byte, beBytes24 (busAddr addr) = [b2, b1, b0] ∧
    addr.toNat % 2 ^ 24 = 65536 * b2.toNat + 256 * b1.toNat + b0.toNat

/-! ### The step -/

/-- R44, R120, R121, R22: with `rst` low, a step is the next event of the instruction in progress: in `IDLE` of the one
whose tag is at the head of the queue, in a transaction phase of the one whose opcode `xop` holds, in each other phase of the
command it belongs to, which a clause names. The host's input for the step has been read before (log 6, log 32). That a step in
`IDLE` with an empty queue answers the same state is the model's form of a block with no step (log 1). -/
def Obligations.StepRunsDecodedInstruction : Prop :=
  ∀ s u : State, s.latch = some u → u.rst = false →
    (∀ i, u.fetch = .instr i → step s = exec i u) ∧
    (∀ t q, u.phase = .idle → u.rxq = t :: q → u.fetch = .instr (decodeTag t)) ∧
    (∀ i, u.phase.onBus = true → decodeBus u.xop = .ok i → u.fetch = .instr i) ∧
    (∀ k, u.phase = .param .r k → u.fetch = .instr .read) ∧ (∀ k, u.phase = .param .w k → u.fetch = .instr .write) ∧
    (u.phase = .ack1 .r → u.fetch = .instr .read) ∧ (u.phase = .ack1 .w → u.fetch = .instr .write) ∧
    (∀ j, u.phase = .rOut j → u.fetch = .instr .read) ∧ (∀ j, u.phase = .wIn j → u.fetch = .instr .write) ∧
    (u.phase = .gap .w ∨ u.phase = .pollWait .w ∨ u.phase = .ack2 → u.fetch = .instr .write) ∧
    (u.phase = .gap .e ∨ u.phase = .pollWait .e ∨ u.phase = .eAck → u.fetch = .instr .erase) ∧
    (∀ k, u.phase = .dOut k → u.fetch = .instr .detect) ∧
    (u.phase = .idle → u.rxq = [] → step s = .next u)

/-- Every row of the opcode table, stored where the machine fetches, is what the next step runs (log 4, log 5). -/
def Obligations.PlacedWordIsRunNext : Prop :=
  ∀ (s : State) (w : Nat), ∃ i, decodeTableWord 8 w = some i ∧
    (s.withFetchWord 8 w).fetch = .instr i ∧ step (s.withFetchWord 8 w) = exec i (s.withFetchWord 8 w)

/-- R280, R281, R259: in a step whose `rst` is high nothing of the block happens but reset: the phase is IDLE, chip-select is
released, no event of R11 is performed (the history gains the model's reset mark, log 25), the queue is emptied or kept as
RX_FLUSH_ON_RESET says (R283), and a transaction that was open leaves the chip with no law (log 15). -/
def Obligations.ResetWinsOverEveryEvent : Prop :=
  ∀ s u : State, s.latch = some u → u.rst = true →
    ∃ t, step s = .next t ∧ t.phase = .idle ∧ t.csActive = false ∧ t.hist = u.hist ++ [.reset] ∧
      t.inputs = u.inputs ∧ t.rst = true ∧ t.txReady = u.txReady ∧
      (Config.rxFlushOnReset = true → t.rxq = []) ∧ (Config.rxFlushOnReset = false → t.rxq = u.rxq) ∧
      (u.csActive = false → t.chip = u.chip) ∧ (u.csActive = true → t.chip = u.chip.cutShort) ∧
      t.ports.txValid = false ∧ t.ports.rxReady = false ∧ t.ports.csN = true

/-- R253: a step faults exactly when the host delivers more bytes than the queue has room for, then with `RxOverrun`, and the run
is faulted for good: no later step clears it.
That all the bytes of one input arrive before the step's event, so that the event makes room for none of them, is the model's
(log 6, log 32). -/
def Obligations.OverrunIsTheOnlyFault : Prop :=
  (∀ (s : State) (f : Fault), step s = .fault f ↔
    f = .rxOverrun ∧ ∃ x rest, s.inputs = x :: rest ∧ x.arrive ≠ [] ∧ Config.rxDepth < s.rxq.length + x.arrive.length) ∧
  ∀ (s : State) (f : Fault) (n : Nat), step s = .fault f → run (n + 1) s = .fault f

/-- R43: where they fit, the bytes the host delivers join the queue in order, behind those already there; nothing else of the
machine changes but the ports.
That one input sets the ports and carries bytes is the model's form of the host (log 6). -/
def Obligations.DeliveredBytesQueueInOrder : Prop :=
  ∀ (s : State) (x : HostInput) (rest : List HostInput), s.inputs = x :: rest →
    s.rxq.length + x.arrive.length ≤ Config.rxDepth →
      s.latch = some { s with inputs := rest, rst := x.rst, txReady := x.txReady, rxq := s.rxq ++ x.arrive }

/-- R252, R44: where the phase awaits a byte and none is there, or offers one the transport does not take, and the host does
nothing, the step leaves the machine exactly as it was.
That a block with no enabled event shows as an unchanged next state is the model's form (log 1). -/
def Obligations.BlockedStepChangesNothing : Prop :=
  ∀ s : State, s.inputs = [] → s.rst = false → s.blocked = true → step s = .next s

/-- R44, R22: a step with `rst` low performs the one event the phase names and no other, or, where that event is blocked,
none at all and nothing changes.
Which event it is, and whether it is blocked, is read after the step's arrivals: the model's order (log 6, log 32). A blocked step
that answers the same state is the model's form (log 1). -/
def Obligations.StepPerformsTheNamedEvent : Prop :=
  ∀ s u t : State, s.latch = some u → u.rst = false → step s = .next t →
    (u.blocked = true ∧ t = u) ∨ (u.blocked = false ∧ ∃ e, u.names e ∧ t.hist = u.hist ++ [e])

/-- R123, R43: no byte of the host is lost, repeated or reordered: what the block has taken, followed by what waits, only
grows by what is delivered (in every step without reset).
That delivered bytes land before the step's event is the model's (log 32). -/
def Obligations.HostBytesAreTakenInOrder : Prop :=
  ∀ s u t : State, s.latch = some u → u.rst = false → step s = .next t →
    rxStream t.hist ++ t.rxq = rxStream s.hist ++ s.rxq ++ (s.inputs.head?.map HostInput.arrive).getD []

/-! ### The host commands -/

/-- R121: the tag is taken and the command started: R and W go to their first parameter byte, E sets up its Write Enable (R126),
D its Read JEDEC ID (R127); any other tag is discarded. -/
def Obligations.DispatchStartsTheCommand : Prop :=
  ∀ (s : State) (q : List Byte), s.phase = .idle →
    (s.rxq = 0x52#8 :: q →
      exec .read s = .next { s with rxq := q, hist := s.hist ++ [.rx 0x52#8], phase := .param .r 0 }) ∧
    (s.rxq = 0x57#8 :: q →
      exec .write s = .next { s with rxq := q, hist := s.hist ++ [.rx 0x57#8], phase := .param .w 0 }) ∧
    (s.rxq = 0x45#8 :: q → ∃ a d,
      exec .erase s = .next { s with
        rxq := q, hist := s.hist ++ [.rx 0x45#8], phase := .xCsOn
        xop := 0x06#8, xhasAddr := false, xaddr := a, xnpay := 0, xnresp := 0, xdst := d, xret := .eWrenDone }) ∧
    (s.rxq = 0x44#8 :: q → ∃ a,
      exec .detect s = .next { s with
        rxq := q, hist := s.hist ++ [.rx 0x44#8], phase := .xCsOn
        xop := 0x9F#8, xhasAddr := false, xaddr := a, xnpay := 0, xnresp := 3, xdst := .jedec, xret := .dIdDone }) ∧
    (∀ t, isCommandTag t = false → s.rxq = t :: q →
      exec (.unknown t) s = .next { s with rxq := q, hist := s.hist ++ [.rx t], phase := .idle })

/-- R128, R255: an unknown tag is taken and discarded: the queue loses it, the history shows it, and nothing else changes. -/
def Obligations.UnknownTagIsDiscarded : Prop :=
  ∀ (s : State) (t : Byte) (q : List Byte), s.phase = .idle → s.rxq = t :: q →
    t ≠ 0x52#8 → t ≠ 0x57#8 → t ≠ 0x45#8 → t ≠ 0x44#8 →
      exec (.unknown t) s = .next { s with rxq := q, hist := s.hist ++ [.rx t] }

/-- R141, R142: parameter byte k of R or W: for k < 4 byte k of `addr`, else byte k − 4 of `rem`; the other bytes of both stay;
then the next parameter byte, or after the eighth the opening acknowledgement.
That Read's acknowledgement follows its eighth parameter byte is the spec's decision D6 (R205, log 19); the phases are its
decision D5. -/
def Obligations.ParameterByteLands : Prop :=
  ∀ (s : State) (k : Fin 8) (b : Byte) (q : List Byte), s.rxq = b :: q →
    ∃ addr' rem' : Word,
      (∀ j, j < 4 → byteOf addr' j = if j = k.val then b else byteOf s.addr j) ∧
      (∀ j, j < 4 → byteOf rem' j = if j + 4 = k.val then b else byteOf s.rem j) ∧
      (s.phase = .param .r k → exec .read s = .next { s with
        rxq := q, hist := s.hist ++ [.rx b], addr := addr', rem := rem'
        phase := if h : k.val < 7 then .param .r ⟨k.val + 1, by omega⟩ else .ack1 .r }) ∧
      (s.phase = .param .w k → exec .write s = .next { s with
        rxq := q, hist := s.hist ++ [.rx b], addr := addr', rem := rem'
        phase := if h : k.val < 7 then .param .w ⟨k.val + 1, by omega⟩ else .ack1 .w })

/-- R140, R141, R142: eight parameter bytes leave `addr` and `rem` the little-endian values of the first and the last four, and the
block at the opening acknowledgement.
That Read's acknowledgement follows its parameters is the spec's decision D6 (R205, log 19); the phases are its decision D5. -/
def Obligations.EightParameterBytesAreAddressAndLength : Prop :=
  ∀ (s : State) (c : Transfer) (a l : Word) (q : List Byte), s.inputs = [] → s.rst = false → s.phase = .param c 0 →
    s.rxq = leBytes32 a ++ leBytes32 l ++ q →
      run 8 s = .next { s with
        phase := .ack1 c, addr := a, rem := l, rxq := q, hist := s.hist ++ rxTrace (leBytes32 a ++ leBytes32 l) }

/-- R146: the loop head ends the transfer when nothing remains; else it takes the chunk `min(rem, 256)` and sets up Read's
transaction or goes to Write's first payload byte.
The form of phases and descriptor is the spec's decision D5 (log 30). -/
def Obligations.LoopHeadTakesTheChunk : Prop :=
  ∀ s : State,
    (s.rem = 0 → s.loopHead .r = { s with phase := .idle } ∧ s.loopHead .w = { s with phase := .ack2 }) ∧
    (s.rem ≠ 0 → ∃ n : Count, n.toNat = min s.rem.toNat 256 ∧
      s.loopHead .r = { s with
        chunk := n, xop := 0x03#8, xhasAddr := true, xaddr := s.addr.setWidth 24, xnpay := 0, xnresp := n, xdst := .buf
        xret := .rdDone, phase := .xCsOn } ∧
      s.loopHead .w = { s with chunk := n, phase := .wIn 0 })

/-- R147: at the end of a chunk the address advances by exactly the chunk size modulo 2^32, the remainder decreases by it without
underflow, and the loop head follows.
Modulo 2^32 is the spec's decision D7 (log 20). -/
def Obligations.AdvanceMovesByTheChunk : Prop :=
  ∀ (s : State) (c : Transfer), s.chunk.toNat ≤ s.rem.toNat →
    ∃ addr' rem' : Word, addr'.toNat = (s.addr.toNat + s.chunk.toNat) % 2 ^ 32 ∧ rem'.toNat = s.rem.toNat - s.chunk.toNat ∧
      s.advance c = { s with addr := addr', rem := rem' }.loopHead c

/-- R148, R149: a transfer of L bytes from address A runs ceil(L / 256) chunks; before chunk j there are L − 256·j bytes left, the
chunk is 256 bytes or the rest, and its bus address is A + 256·j modulo 2^24; after the last chunk nothing remains and the
loop ends.
The spec marks R148 and R149 as derived; the wrap of `addr` is its decision D7 (log 20). -/
def Obligations.ChunksCoverTheTransfer : Prop :=
  ∀ (s : State) (c : Transfer) (j : Nat),
    let u := (fun t => State.advance t c)^[j] (s.loopHead c)
    (j < chunkCount s.rem.toNat →
      u.rem.toNat = s.rem.toNat - 256 * j ∧ u.chunk.toNat = min (s.rem.toNat - 256 * j) 256 ∧ 1 ≤ u.chunk.toNat ∧
      (busAddr u.addr).toNat = (s.addr.toNat + 256 * j) % 2 ^ 24) ∧
    (j = chunkCount s.rem.toNat →
      u.rem = 0 ∧ u.phase = (match c with | .r => .idle | .w => .ack2) ∧
      u.addr.toNat = (s.addr.toNat + s.rem.toNat) % 2 ^ 32)

/-- R205, R210: the opening acknowledgement of R and of W is 0xAA, sent when the transport accepts; then the loop head. That
R's follows its parameters is the spec's decision D6 (log 19). -/
def Obligations.OpeningAckThenLoopHead : Prop :=
  ∀ s : State, s.txReady = true →
    (s.phase = .ack1 .r → exec .read s = .next (({ s with hist := s.hist ++ [.tx 0xAA#8] } : State).loopHead .r)) ∧
    (s.phase = .ack1 .w → exec .write s = .next (({ s with hist := s.hist ++ [.tx 0xAA#8] } : State).loopHead .w))

/-- R206: byte i of a Read chunk goes to the host; then byte i + 1, or after the last Advance; and the first byte goes out only
after the chunk's Read Data transaction has ended. -/
def Obligations.ReadByteGoesOut : Prop :=
  (∀ (s : State) (i : Fin 256), s.phase = .rOut i → s.txReady = true → s.chunk.toNat ≤ 256 →
    (∀ h : i.val + 1 < s.chunk.toNat, ∃ h' : i.val + 1 < 256,
      exec .read s = .next { s with hist := s.hist ++ [.tx s.buf[i.val]], phase := .rOut ⟨i.val + 1, h'⟩ }) ∧
    (s.chunk.toNat ≤ i.val + 1 →
      exec .read s = .next (({ s with hist := s.hist ++ [.tx s.buf[i.val]] } : State).advance .r))) ∧
  ∀ (s t : State) (x : Instr) (j : Fin 256), exec x s = .next t → t.phase = .rOut j → (∀ k, s.phase ≠ .rOut k) →
    s.phase = .xCsOff ∧ s.xret = .rdDone ∧ j = 0

/-- R211: payload byte i of a Write chunk lands in `buf[i]`; then byte i + 1, or after the last the Write Enable transaction is
set up. -/
def Obligations.PayloadByteComesIn : Prop :=
  ∀ (s : State) (i : Fin 256) (b : Byte) (q : List Byte), s.phase = .wIn i → s.rxq = b :: q → s.chunk.toNat ≤ 256 →
    (∀ h : i.val + 1 < s.chunk.toNat, ∃ h' : i.val + 1 < 256,
      exec .write s = .next { s with
        rxq := q, hist := s.hist ++ [.rx b], buf := s.buf.set i.val b, phase := .wIn ⟨i.val + 1, h'⟩ }) ∧
    (s.chunk.toNat ≤ i.val + 1 → ∃ a d,
      exec .write s = .next { s with
        rxq := q, hist := s.hist ++ [.rx b], buf := s.buf.set i.val b, phase := .xCsOn
        xop := 0x06#8, xhasAddr := false, xaddr := a, xnpay := 0, xnresp := 0, xdst := d, xret := .wWrenDone })

/-- R212, R216: the gap is one `Wait(WREN_GAP)`; after it Write sets up Page Program of the chunk at `addr[23:0]`, Erase sets up
Chip Erase.
One delay for both commands is the spec's decision D9. -/
def Obligations.GapThenWriteClassSetup : Prop :=
  ∀ s : State,
    (s.phase = .gap .w → ∃ d,
      exec .write s = .next { s with
        hist := s.hist ++ [.wait .wrenGap], phase := .xCsOn
        xop := 0x02#8, xhasAddr := true, xaddr := s.addr.setWidth 24, xnpay := s.chunk, xnresp := 0, xdst := d
        xret := .wPpDone }) ∧
    (s.phase = .gap .e → ∃ a d,
      exec .erase s = .next { s with
        hist := s.hist ++ [.wait .wrenGap], phase := .xCsOn
        xop := 0xC7#8, xhasAddr := false, xaddr := a, xnpay := 0, xnresp := 0, xdst := d, xret := .eCeDone })

/-- R231: between polls there is one `Wait(POLL)`; then the next poll is set up.
The delay's place is the spec's decision D8 (log 21). -/
def Obligations.PollDelayThenNextPoll : Prop :=
  ∀ s : State,
    (s.phase = .pollWait .w → ∃ a,
      exec .write s = .next { s with
        hist := s.hist ++ [.wait .poll], phase := .xCsOn
        xop := 0x05#8, xhasAddr := false, xaddr := a, xnpay := 0, xnresp := 1, xdst := .sr, xret := .pollDone .w }) ∧
    (s.phase = .pollWait .e → ∃ a,
      exec .erase s = .next { s with
        hist := s.hist ++ [.wait .poll], phase := .xCsOn
        xop := 0x05#8, xhasAddr := false, xaddr := a, xnpay := 0, xnresp := 1, xdst := .sr, xret := .pollDone .e })

/-- R213, R217: the closing acknowledgement of Write and the acknowledgement of Erase are 0xAA, then IDLE. Write's comes once no
byte remains: at once for a zero length, else after a poll that read bit 0 clear; Erase's comes after such a poll. -/
def Obligations.FinalAckThenIdle : Prop :=
  (∀ s : State, s.txReady = true →
    (s.phase = .ack2 → exec .write s = .next { s with hist := s.hist ++ [.tx 0xAA#8], phase := .idle }) ∧
    (s.phase = .eAck → exec .erase s = .next { s with hist := s.hist ++ [.tx 0xAA#8], phase := .idle })) ∧
  ∀ (s t : State) (x : Instr), exec x s = .next t → t.phase ≠ s.phase →
    (t.phase = .ack2 → t.rem = 0 ∧
      (s.phase = .ack1 .w ∨ s.phase = .xCsOff ∧ s.xret = .pollDone .w ∧ s.sr.getLsbD 0 = false)) ∧
    (t.phase = .eAck → s.phase = .xCsOff ∧ s.xret = .pollDone .e ∧ s.sr.getLsbD 0 = false)

/-- R221: Detect response byte k is `jedec[k]` for k ≤ 2 and byte k − 3 of `cap` after; then byte k + 1, or IDLE after the
seventh. -/
def Obligations.DetectByteGoesOut : Prop :=
  ∀ (s : State) (k : Fin 7), s.phase = .dOut k → s.txReady = true →
    ∃ v : Byte,
      (∀ h : k.val ≤ 2, v = s.jedec[k.val]'(by omega)) ∧ (3 ≤ k.val → v = byteOf s.cap (k.val - 3)) ∧
      exec .detect s = .next { s with
        hist := s.hist ++ [.tx v], phase := if h : k.val < 6 then .dOut ⟨k.val + 1, by omega⟩ else .idle }

/-! ### The bus transactions -/

/-- R180, for each of the six bus instructions: the select, then the opcode, then what the descriptor has next: address, payload,
response, or the release. The byte received during the opcode is not stored (R183). -/
def Obligations.TransactionOpens : Prop :=
  ∀ (s : State) (i : Instr), i.onTransport = false → s.xop = opcodeOf i →
    (s.phase = .xCsOn → exec i s = .next { s with
      csActive := true, chip := s.chip.select, hist := s.hist ++ [.csAssert], phase := .xOp }) ∧
    (s.phase = .xOp → exec i s = .next { s with
      chip := (s.chip.exchange s.hist s.xop).2, hist := s.hist ++ [.xfer s.xop (s.chip.exchange s.hist s.xop).1]
      phase := if s.xhasAddr then .xAddr 0 else if s.xnpay ≠ 0 then .xPay 0 else if s.xnresp ≠ 0 then .xResp 0 else .xCsOff })

/-- R180, R61, for BUS_READ and BUS_PP: the three address bytes, most significant first. -/
def Obligations.AddressBytesGoOut : Prop :=
  ∀ (s : State) (i : Instr) (k : Fin 3), i = .busRead ∨ i = .busPp → s.xop = opcodeOf i → s.phase = .xAddr k →
    ∃ o : Byte, o.toNat = s.xaddr.toNat / 256 ^ (2 - k.val) % 256 ∧
      exec i s = .next { s with
        chip := (s.chip.exchange s.hist o).2, hist := s.hist ++ [.xfer o (s.chip.exchange s.hist o).1]
        phase := if h : k.val < 2 then .xAddr ⟨k.val + 1, by omega⟩
          else if s.xnpay ≠ 0 then .xPay 0 else if s.xnresp ≠ 0 then .xResp 0 else .xCsOff }

/-- R180, R30, for BUS_PP: payload byte i is `buf[i]`. -/
def Obligations.PayloadBytesGoOut : Prop :=
  ∀ (s : State) (i : Fin 256), s.xop = 0x02#8 → s.phase = .xPay i → s.xnpay.toNat ≤ 256 →
    exec .busPp s = .next { s with
      chip := (s.chip.exchange s.hist s.buf[i.val]).2
      hist := s.hist ++ [.xfer s.buf[i.val] (s.chip.exchange s.hist s.buf[i.val]).1]
      phase := if h : i.val + 1 < s.xnpay.toNat ∧ i.val + 1 < 256 then .xPay ⟨i.val + 1, h.2⟩
        else if s.xnresp ≠ 0 then .xResp 0 else .xCsOff }

/-- R180, R184, R186, R187, R191: response byte i is clocked with 0x00 out and lands in `jedec[i]` for BUS_RDID, `buf[i]` for
BUS_READ, `sr` for BUS_RDSR; then byte i + 1, or the release.
Which register an operation lands in is the spec's decision D17 (log 30). -/
def Obligations.ResponseBytesLand : Prop :=
  ∀ (s : State) (i : Fin 256), s.phase = .xResp i → s.xnresp.toNat ≤ 256 →
    let v := (s.chip.exchange s.hist 0x00#8).1
    let u : State := { s with
      chip := (s.chip.exchange s.hist 0x00#8).2, hist := s.hist ++ [.xfer 0x00#8 v]
      phase := if h : i.val + 1 < s.xnresp.toNat ∧ i.val + 1 < 256 then .xResp ⟨i.val + 1, h.2⟩ else .xCsOff }
    (s.xop = 0x9F#8 → s.xdst = .jedec → ∀ h : i.val < 3, exec .busRdid s = .next { u with jedec := s.jedec.set i.val v }) ∧
    (s.xop = 0x03#8 → s.xdst = .buf → exec .busRead s = .next { u with buf := s.buf.set i.val v }) ∧
    (s.xop = 0x05#8 → s.xdst = .sr → exec .busRdsr s = .next { u with sr := v })

/-- R180, R33, R204, R212, R216, R220, R232: chip-select is released and the command goes on at the transaction's
continuation.
The first poll without a delay is the spec's decision D8 (log 21). -/
def Obligations.ReleaseThenContinuation : Prop :=
  ∀ s : State, s.phase = .xCsOff →
    let u : State := { s with csActive := false, chip := s.chip.deselect s.hist, hist := s.hist ++ [.csDeassert] }
    (s.xop = 0x9F#8 → s.xret = .dIdDone → exec .busRdid s = .next { u with
      cap := decodeCapacity s.jedec[0] s.jedec[1] s.jedec[2], phase := .dOut 0 }) ∧
    (s.xop = 0x03#8 → s.xret = .rdDone → exec .busRead s = .next { u with phase := .rOut 0 }) ∧
    (s.xop = 0x06#8 → s.xret = .wWrenDone → exec .busWren s = .next { u with phase := .gap .w }) ∧
    (s.xop = 0x06#8 → s.xret = .eWrenDone → exec .busWren s = .next { u with phase := .gap .e }) ∧
    (s.xop = 0x02#8 → s.xret = .wPpDone → ∃ a, exec .busPp s = .next { u with
      xop := 0x05#8, xhasAddr := false, xaddr := a, xnpay := 0, xnresp := 1, xdst := .sr, xret := .pollDone .w
      phase := .xCsOn }) ∧
    (s.xop = 0xC7#8 → s.xret = .eCeDone → ∃ a, exec .busCe s = .next { u with
      xop := 0x05#8, xhasAddr := false, xaddr := a, xnpay := 0, xnresp := 1, xdst := .sr, xret := .pollDone .e
      phase := .xCsOn }) ∧
    (s.xop = 0x05#8 → ∀ c, s.xret = .pollDone c → s.sr.getLsbD 0 = true →
      exec .busRdsr s = .next { u with phase := .pollWait c }) ∧
    (s.xop = 0x05#8 → s.xret = .pollDone .w → s.sr.getLsbD 0 = false → exec .busRdsr s = .next (u.advance .w)) ∧
    (s.xop = 0x05#8 → s.xret = .pollDone .e → s.sr.getLsbD 0 = false → exec .busRdsr s = .next { u with phase := .eAck })

/-- R186 to R191, R99, R100: what each Setup makes the transaction send is the MOSI byte sequence of its format, with the operands
the rule gives: no address for 0x9F, 0x06, 0xC7 and 0x05, `addr[23:0]` and the chunk for 0x03 and 0x02. -/
def Obligations.SetupSpellsTheTransaction : Prop :=
  ∀ (s : State) (c : WriteClass), s.chunk.toNat ≤ 256 →
    s.setupRdid.mosiBytes = encodeBusCmd .rdid ∧
    s.setupRead.mosiBytes = encodeBusCmd (.read (busAddr s.addr) s.chunk.toNat) ∧
    (s.setupWren c).mosiBytes = encodeBusCmd .wren ∧
    s.setupPp.mosiBytes = encodeBusCmd (.program (busAddr s.addr) (s.buf.toList.take s.chunk.toNat)) ∧
    s.setupCe.mosiBytes = encodeBusCmd .chipErase ∧
    (s.setupRdsr c).mosiBytes = encodeBusCmd .rdsr

/-- R180, R99, R182: whatever descriptor with one of the six opcodes is set up, the transaction runs to its end whatever the chip
answers: select, exactly the bytes of `mosiBytes` with the chip's answers, release; the answers to the last `xnresp` exchanges
have landed where `xdst` says, and the command goes on at `xret`.
The phase form is the spec's decision D5. -/
def Obligations.TransactionRunsToItsEnd : Prop :=
  ∀ (s : State) (i : Instr) (ans rest : List Byte), s.inputs = [] → s.rst = false → s.phase = .xCsOn →
    decodeBus s.xop = .ok i → s.xnpay.toNat ≤ 256 → s.xnresp.toNat ≤ 256 → s.chip = .oracle (ans ++ rest) →
    ans.length = s.mosiBytes.length →
      run (ans.length + 2) s = .next
        ({ s.captureFrom 0 (ans.drop (ans.length - s.xnresp.toNat)) with
          phase := .xCsOff, csActive := false, chip := .oracle rest
          hist := s.hist ++ transactionTrace s.mosiBytes ans }).continueAt

/-! ### What an instruction leaves unchanged -/

/-- Read and Write in their own phases: `jedec`, `cap`, `sr`, chip-select, the chip and with it every byte of the flash array, the
ports and the host's schedule are unchanged; Read leaves `buf` unchanged, Write leaves it but for the one payload byte
of its phase; `addr` and `rem` change only in PARAM and, for Read, after a chunk's last byte, `chunk` only at a loop head, none of
the three where a byte is offered and not accepted, and the descriptor only where a transaction is set up. -/
def Obligations.TransferCommandFrame : Prop :=
  ∀ s t : State, exec .read s = .next t ∨ exec .write s = .next t →
    t.jedec = s.jedec ∧ t.cap = s.cap ∧ t.sr = s.sr ∧ t.csActive = s.csActive ∧ t.chip = s.chip ∧ t.rst = s.rst ∧
      t.txReady = s.txReady ∧ t.inputs = s.inputs ∧
      (exec .read s = .next t → t.buf = s.buf) ∧
      (∀ j : Fin 256, s.phase ≠ .wIn j → t.buf[j.val] = s.buf[j.val]) ∧
      ((∀ c k, s.phase ≠ .param c k) → (∀ i, s.phase ≠ .rOut i) → t.addr = s.addr ∧ t.rem = s.rem) ∧
      ((∀ c k, s.phase ≠ .param c k) → (∀ j, s.phase ≠ .wIn j) → s.phase ≠ .idle → t.rxq = s.rxq) ∧
      ((∀ c, s.phase ≠ .ack1 c) → (∀ i, s.phase ≠ .rOut i) → t.chunk = s.chunk) ∧
      (∀ i : Fin 256, s.phase = .rOut i → (s.txReady = false ∨ (i.val + 1 < s.chunk.toNat ∧ i.val + 1 < 256)) →
        t.addr = s.addr ∧ t.rem = s.rem ∧ t.chunk = s.chunk) ∧
      (∀ c, s.phase = .ack1 c → (s.txReady = false ∨ s.rem = 0) → t.chunk = s.chunk) ∧
      (t.phase ≠ .xCsOn → t.xop = s.xop ∧ t.xhasAddr = s.xhasAddr ∧ t.xaddr = s.xaddr ∧ t.xnpay = s.xnpay ∧
        t.xnresp = s.xnresp ∧ t.xdst = s.xdst ∧ t.xret = s.xret) ∧
      (s.phase = .idle → { t with phase := s.phase, rxq := s.rxq, hist := s.hist } = s)

/-- Erase, Detect and an unknown tag: of the working registers only the descriptor can change, and that only where a transaction is
set up; the chip and with it every byte of the flash array, the ports and the host's schedule are unchanged; the queue changes only in IDLE;
an unknown tag changes no register at all. -/
def Obligations.ShortCommandFrame : Prop :=
  ∀ s t : State,
    (exec .erase s = .next t ∨ exec .detect s = .next t →
      t.addr = s.addr ∧ t.rem = s.rem ∧ t.chunk = s.chunk ∧ t.buf = s.buf ∧ t.jedec = s.jedec ∧ t.cap = s.cap ∧ t.sr = s.sr ∧
        t.csActive = s.csActive ∧ t.chip = s.chip ∧ t.rst = s.rst ∧ t.txReady = s.txReady ∧ t.inputs = s.inputs ∧
        (s.phase ≠ .idle → t.rxq = s.rxq) ∧
        (t.phase ≠ .xCsOn → t.xop = s.xop ∧ t.xhasAddr = s.xhasAddr ∧ t.xaddr = s.xaddr ∧ t.xnpay = s.xnpay ∧
          t.xnresp = s.xnresp ∧ t.xdst = s.xdst ∧ t.xret = s.xret)) ∧
    (∀ b, exec (.unknown b) s = .next t → { t with rxq := s.rxq, hist := s.hist } = s)

/-- The bus instructions, in every state of the invariant: the ports, the host's schedule and the queue are unchanged; `buf` changes
only by BUS_READ, `jedec` and `cap` only by BUS_RDID, `sr` only by BUS_RDSR; `addr`, `rem` and `chunk` change only at the
release of a poll of Write that reads bit 0 clear; the descriptor changes only at a release. -/
def Obligations.BusInstructionFrame : Prop :=
  ∀ (s t : State) (i : Instr), s.Inv → i.onTransport = false → exec i s = .next t →
    t.rst = s.rst ∧ t.txReady = s.txReady ∧ t.inputs = s.inputs ∧ t.rxq = s.rxq ∧
      (i ≠ .busRead → t.buf = s.buf) ∧ (i ≠ .busRdid → t.jedec = s.jedec ∧ t.cap = s.cap) ∧
      (i ≠ .busRdsr → t.sr = s.sr ∧ t.addr = s.addr ∧ t.rem = s.rem ∧ t.chunk = s.chunk) ∧
      (∀ j : Fin 256, s.phase ≠ .xResp j → t.buf[j.val] = s.buf[j.val]) ∧
      (s.phase ≠ .xCsOff → t.xop = s.xop ∧ t.xhasAddr = s.xhasAddr ∧ t.xaddr = s.xaddr ∧ t.xnpay = s.xnpay ∧
        t.xnresp = s.xnresp ∧ t.xdst = s.xdst ∧ t.xret = s.xret ∧ t.addr = s.addr ∧ t.rem = s.rem ∧ t.chunk = s.chunk ∧
        t.cap = s.cap) ∧
      (s.xret ≠ .pollDone .w ∨ s.sr.getLsbD 0 = true → t.addr = s.addr ∧ t.rem = s.rem ∧ t.chunk = s.chunk)

/-- The flash array of a `RefChip` (D23, PRESUMED log 13): of all instructions only a Page Program and a Chip Erase change a byte of
it, and only at their release (that a transaction acts at its release is the reading of log 28, DEDUCED). A Page
Program changes only the addresses `pageAddr xaddr i` of its payload bytes. -/
def Obligations.FlashChangesOnlyByWriteClass : Prop :=
  ∀ (s t : State) (i : Instr), s.Inv → exec i s = .next t → ∀ x : Nat,
    (i ≠ .busPp → i ≠ .busCe → t.chip.flash x = s.chip.flash x) ∧
    (s.phase ≠ .xCsOff → t.chip.flash x = s.chip.flash x) ∧
    (i = .busPp → ∀ c, s.chip = .ref c →
      (∀ j, j < s.xnpay.toNat → x % c.capacity ≠ (RefChip.pageAddr s.xaddr j).toNat % c.capacity) →
      t.chip.flash x = s.chip.flash x)

/-! ### Invariants -/

/-- The invariant and the discipline of the history hold at reset, and of every machine that has just left reset with a queue that
fits and a chip in form. -/
def Obligations.ResetMeetsTheInvariants : Prop :=
  (State.reset.Inv ∧ State.reset.Disciplined) ∧
    ∀ (q : List Byte) (ins : List HostInput) (c : Chip), q.length ≤ Config.rxDepth → c.wf = true →
      (State.boot q ins c).Inv ∧ (State.boot q ins c).Disciplined

/-- R182, R25, R30, R101, R192, R43: every step keeps the invariant. -/
def Obligations.StepKeepsTheInvariant : Prop :=
  ∀ s t : State, s.Inv → step s = .next t → t.Inv

/-- R182, R185, R192, R224, R230: every step keeps the discipline of the history: exchanges only under a select and transport events
and waits only outside it; no opcode but the six; every Page Program and Chip Erase right after a Write Enable and its gap, and
followed by status polls alone until one reads bit 0 clear.
A `Wait(POLL)` stands between a busy poll and the next and nowhere else, so none before the first poll: the spec's decision D8
(R230, R231, log 21). One gap for Page Program and Chip Erase is its D9 (log 22). The history carries the model's
mark for a reset cycle, which ends every duty (log 25). -/
def Obligations.StepKeepsTheBusDiscipline : Prop :=
  ∀ s t : State, s.Inv → s.Disciplined → step s = .next t → t.Disciplined

/-- R182, R185, R192, R224, R230: whatever the host sends, however it accepts and resets, and whatever the chip answers, the history
of every run from reset keeps the discipline.
A `Wait(POLL)` stands between a busy poll and the next and nowhere else, so none before the first poll: the spec's decision D8
(R230, R231, log 21). One gap for Page Program and Chip Erase is its D9 (log 22). The history carries the model's
mark for a reset cycle, which ends every duty (log 25). -/
def Obligations.EveryRunIsDisciplined : Prop :=
  ∀ (q : List Byte) (ins : List HostInput) (c : Chip) (n : Nat) (t : State), q.length ≤ Config.rxDepth → c.wf = true →
    run n (State.boot q ins c) = .next t → ∃ m, monitor t.hist = some m

/-- R250: from every state of the invariant a step is a next state, or the overrun fault of R253; nothing is refused. -/
def Obligations.NothingElseStopsTheMachine : Prop :=
  ∀ s : State, s.Inv → (∃ t, step s = .next t) ∨ step s = .fault .rxOverrun

/-- R39, R40: two machines in IDLE that differ only in their working registers look the same from outside for ever: the same
events, the same phases, the same levels at the ports with the byte offered, the same faults. -/
def Obligations.StaleRegistersAreNeverSeen : Prop :=
  ∀ (s t : State) (n : Nat), s.phase = .idle → s.agree t → sameOutside (run n s) (run n t)

/-! ### Whole commands -/

/-- R219 to R223, R186: Detect, whatever the chip answers: one Read JEDEC ID transaction, then the three bytes and the decoded
capacity to the host, then IDLE. -/
def Obligations.DetectRunsWhole : Prop :=
  ∀ (s : State) (x j0 j1 j2 : Byte) (rest q : List Byte), s.quiet → s.phase = .idle → s.rxq = encodeFrame .detect ++ q →
    s.chip = .oracle (x :: j0 :: j1 :: j2 :: rest) →
      ∃ t, run 14 s = .next t ∧ t.phase = .idle ∧ t.rxq = q ∧ t.chip = .oracle rest ∧ t.csActive = false ∧
        t.hist = s.hist ++ [.rx 0x44#8] ++ transactionTrace [0x9F#8, 0x00#8, 0x00#8, 0x00#8] [x, j0, j1, j2] ++
          txTrace ([j0, j1, j2] ++ leBytes32 (decodeCapacity j0 j1 j2))

/-- R128, R102: a run of unknown bytes is consumed one a step, with nothing sent and nothing on the bus. -/
def Obligations.UnknownBytesAreConsumed : Prop :=
  ∀ (s : State) (bs q : List Byte), s.quiet → s.phase = .idle → s.rxq = bs ++ q → (∀ b ∈ bs, isCommandTag b = false) →
    run bs.length s = .next { s with rxq := q, hist := s.hist ++ rxTrace bs }

/-- R204, R95, R145, R63: Read of any address and length, whatever the chip answers: the acknowledgement, then per chunk one Read
Data transaction and its bytes to the host in order; the host receives 0xAA and exactly L bytes; then IDLE.
The place of the acknowledgement is the spec's decision D6 (log 19); that `addr` ends at A + L modulo 2^32 is its D7 (log 20). -/
def Obligations.ReadRunsWhole : Prop :=
  ∀ (s : State) (a l : Word) (ans rest q : List Byte), s.quiet → s.phase = .idle → s.rxq = encodeFrame (.read a l) ++ q →
    s.chip = .oracle (ans ++ rest) → ans.length = readAnswers l.toNat →
      ∃ n t, run n s = .next t ∧ t.phase = .idle ∧ t.rxq = q ∧ t.chip = .oracle rest ∧
        t.addr = a + l ∧ t.rem = 0 ∧
        t.hist = s.hist ++ rxTrace (encodeFrame (.read a l)) ++ [.tx 0xAA#8] ++
          readTrace (chunkCount l.toNat) a l.toNat ans ∧
        txStream t.hist = txStream s.hist ++ 0xAA#8 :: readData (chunkCount l.toNat) l.toNat ans ∧
        (readData (chunkCount l.toNat) l.toNat ans).length = l.toNat

/-- R210 to R213, R145: Write of any address and payload, for a chip whose busy-waits end: the acknowledgement, per chunk the
payload bytes, Write Enable, gap, Page Program and busy-wait, then the closing acknowledgement, then IDLE.
That `addr` ends at A + L modulo 2^32 is the spec's decision D7 (log 20), the places of the poll delays its D8 (log 21), the gap
its D9 (log 22). -/
def Obligations.WriteRunsWhole : Prop :=
  ∀ (s : State) (a : Word) (payload : List Byte) (cs : List ChunkAnswers) (rest q : List Byte), s.quiet → s.phase = .idle →
    payload.length < 2 ^ 32 → s.rxq = encodeFrame (.write a payload) ++ q → answersFit payload cs →
    s.chip = .oracle (cs.flatMap ChunkAnswers.bytes ++ rest) →
      ∃ n t, run n s = .next t ∧ t.phase = .idle ∧ t.rxq = q ∧ t.chip = .oracle rest ∧
        t.addr = a + BitVec.ofNat 32 payload.length ∧ t.rem = 0 ∧
        t.hist = s.hist ++ rxTrace (0x57#8 :: (leBytes32 a ++ leBytes32 (BitVec.ofNat 32 payload.length))) ++ [.tx 0xAA#8] ++
          writeTrace a payload cs ++ [.tx 0xAA#8]

/-- R216 to R218, R232: Erase with any number N of busy polls: Write Enable, gap, Chip Erase, N + 1 status polls with a delay
after each of the first N, then the acknowledgement, then IDLE.
The places of the poll delays, and with them their count, are the spec's decision D8 (log 21); the gap is its D9 (log 22). -/
def Obligations.EraseRunsWhole : Prop :=
  ∀ (s : State) (x y : Byte) (ps : List PollAnswer) (last : PollAnswer) (rest q : List Byte), s.quiet → s.phase = .idle →
    s.rxq = encodeFrame .erase ++ q → pollsEnd ps last →
    s.chip = .oracle (x :: y :: (pollBytes ps ++ [last.1, last.2] ++ rest)) →
      ∃ t, run (13 + 5 * ps.length) s = .next t ∧ t.phase = .idle ∧ t.rxq = q ∧ t.chip = .oracle rest ∧ t.csActive = false ∧
        t.hist = s.hist ++ [.rx 0x45#8] ++ transactionTrace [0x06#8] [x] ++ [.wait .wrenGap] ++
          transactionTrace [0xC7#8] [y] ++ busyWaitTrace ps last ++ [.tx 0xAA#8]

/-- R233, R254, R295: while every poll reads bit 0 set the busy-wait goes on: after any number of them the block is at the same
point, having taken no byte, sent no acknowledgement and done nothing but poll and wait. On a chip whose bit 0 never reads clear
(log 33) it goes on for ever: the execution has no end, is weakly fair, and never reaches IDLE; the host's premise of progress
holds in it and the chip's does not; it is observed as a hang, and it is a failure of every claim about what the command leaves. So
is a whole Erase on such a chip.
How an execution without end is observed, as hung and as a failure, is the reading of R254 and R295 in log 31 (DEDUCED).
No delay before the first poll is the spec's decision D8 (log 21). -/
def Obligations.BusyChipHoldsTheBlock : Prop :=
  (∀ (s : State) (c : WriteClass) (ps : List PollAnswer) (rest : List Byte), s.quiet → (∃ u, s = State.setupRdsr u c) →
    (∀ p ∈ ps, writeInProgress p.2 = true) → s.chip = .oracle (pollBytes ps ++ rest) →
      ∃ t, run (5 * ps.length) s = .next t ∧ t.phase = .xCsOn ∧ t.xop = 0x05#8 ∧ t.xret = .pollDone c ∧ t.rxq = s.rxq ∧
        t.addr = s.addr ∧ t.rem = s.rem ∧ t.chip = .oracle rest ∧ t.hist = s.hist ++ busyTrace ps) ∧
  (∀ (s : State) (c : WriteClass) (b : Byte), s.quiet → (∃ u, s = State.setupRdsr u c) → s.chip = .steady [] b →
    b.getLsbD 0 = true →
      (∃ e, s.execution e ∧ WeaklyFair e ∧ HostAccepts e ∧ ¬ ChipClears e ∧
        (∀ n, (e n).phase ≠ .idle ∧ (e n).rxq = s.rxq ∧ rxStream (e n).hist = rxStream s.hist ∧
          txStream (e n).hist = txStream s.hist) ∧
        ∀ n, (e (5 * n)).hist = s.hist ++ busyTrace (List.replicate n (b, b))) ∧
      s.observed .hung ∧ ∀ P, ¬ s.succeeds P) ∧
  ∀ (s : State) (x y b : Byte) (q : List Byte), s.quiet → s.phase = .idle → s.rxq = encodeFrame .erase ++ q →
    s.chip = .steady [x, y] b → b.getLsbD 0 = true → s.observed .hung ∧ ∀ P, ¬ s.succeeds P

/-! ### Capacity -/

/-- R160 to R163: the capacity of a code of the first family is 2 to the code; of 0x40 it is 0x00100000; of each of the five
codes the source gives no value for it is that code's own parameter, which is not 0; of every other byte it is 0.
The spec derives the values of the first family (R161); the five open ones are its decision D13 (log 11). -/
def Obligations.CapacityTableIsTotal : Prop :=
  (∀ id : Byte, 0x11 ≤ id.toNat → id.toNat ≤ 0x19 → (capOf id).toNat = 2 ^ id.toNat) ∧
  capOf 0x40#8 = 0x00100000#32 ∧
  (capOf 0x50#8 = Config.cap .c50 ∧ capOf 0x60#8 = Config.cap .c60 ∧ capOf 0x70#8 = Config.cap .c70 ∧
    capOf 0x80#8 = Config.cap .c80 ∧ capOf 0x90#8 = Config.cap .c90 ∧ ∀ c, Config.cap c ≠ 0) ∧
  (∀ id : Byte, ¬ (0x11 ≤ id.toNat ∧ id.toNat ≤ 0x19) → ¬ (0x40 ≤ id.toNat ∧ id.toNat ≤ 0x90 ∧ id.toNat % 16 = 0) →
    capOf id = 0#32)

/-- R164, R165: the third byte's capacity; if it is 0 and the manufacturer is 0xEF, the second byte's; nothing further. -/
def Obligations.CapacityFallsBackForOneManufacturer : Prop :=
  ∀ j0 j1 j2 : Byte,
    (capOf j2 ≠ 0 → decodeCapacity j0 j1 j2 = capOf j2) ∧
    (capOf j2 = 0 → j0 = 0xEF#8 → decodeCapacity j0 j1 j2 = capOf j1) ∧
    (capOf j2 = 0 → j0 ≠ 0xEF#8 → decodeCapacity j0 j1 j2 = 0)

/-! ### The reference chip, the ports, the bits -/

/-- D23, C4 (PRESUMED, log 13): on a `RefChip`, Write Enable, Page Program of erased bytes within one page, and Read Data of the
same addresses give back exactly the bytes programmed.
That no answer is given at the opcode and address places, and that the answers come byte by byte, is log 28 (DEDUCED). -/
def Obligations.ProgramThenReadGivesTheBytes : Prop :=
  ∀ (c : RefChip) (a : BusAddr) (data : List Byte) (k m n : Nat), Memory.wf c.mem = true → data ≠ [] →
    a.toNat % 256 + data.length ≤ 256 → a.toNat + data.length ≤ c.capacity →
    (∀ i, i < data.length → c.peek (a.toNat + i) = 0xFF#8) →
      let c1 := (c.transaction k (encodeBusCmd .wren)).2
      let c2 := (c1.transaction m (encodeBusCmd (.program a data))).2
      (c2.transaction n (encodeBusCmd (.read a data.length))).1 = List.replicate 4 none ++ data.map some

/-- D23, V3 (PRESUMED, log 13): on a `RefChip`, after Write Enable and Chip Erase every address reads 0xFF; without a Write Enable
neither Chip Erase nor Page Program changes anything: not a byte of the array, not the latch, not the busy count. That a command
acts at the release is log 28 (DEDUCED). -/
def Obligations.ChipEraseNeedsWriteEnable : Prop :=
  ∀ (c : RefChip) (k m x : Nat) (a : BusAddr) (data : List Byte),
    ((c.transaction k (encodeBusCmd .wren)).2.transaction m (encodeBusCmd .chipErase)).2.peek x = 0xFF#8 ∧
    (c.wel = false → (c.transaction m (encodeBusCmd .chipErase)).2 = { c with cmd := [] } ∧
      (c.transaction m (encodeBusCmd (.program a data))).2 = { c with cmd := [] })

/-- R46, R20, R31: what reset leaves: IDLE, chip-select released and `cs_n` 1, nothing offered, `rx_ready` 0, `sclk` at its
idle level; an empty history (R282).
The reset state is the spec's decision D14; that no byte waits at power-on is the model's (log 10). -/
def Obligations.ResetStateAndPorts : Prop :=
  State.reset.phase = .idle ∧ State.reset.csActive = false ∧ State.reset.ports.csN = true ∧
    State.reset.ports.txValid = false ∧ State.reset.ports.rxReady = false ∧
    State.reset.ports.sclk = sclkIdle Config.spiMode ∧ sclkIdle 0 = false ∧ State.reset.hist = []

/-- R20, R31, R143: `cs_n` is the complement of `cs_active`; the ports offer exactly the byte the next `TxByte` sends, and take a
byte exactly when the next event is an enabled `RxByte`.
The ports are the spec's decision D2; that they are functions of the state is the model's form (log 17). -/
def Obligations.PortsShowTheNextEvent : Prop :=
  ∀ s : State, s.rst = false →
    s.ports.csN = !s.csActive ∧
    (∀ v, s.names (.tx v) ↔ s.ports.txValid = true ∧ s.ports.txData = v) ∧
    ((∃ b, s.names (.rx b)) ↔ s.ports.rxReady = true) ∧
    (∀ b, s.names (.rx b) → s.ports.rxData = some b)

/-- R62, R181: at bit level an exchange sends the eight bits of the byte out most significant first, and captures the byte
whose bits the chip sends most significant first.
The bit order is the spec's decision D4, from general knowledge (log 18). -/
def Obligations.ExchangeShiftsMostSignificantFirst : Prop :=
  ∀ o i : Byte, exchangeBits o i = (bitsMsbFirst o, i)
end

