-- ==== Sys2Proof/Laws/Bytes.lean ====
section
/-! SUPPORT. The byte-order helpers undo each other (spec/00_scope.md R10), and the parameter bytes of R and W assemble a 32-bit
value whatever the register held (spec/41_serial_framing.md R141). -/

namespace Sys2Proof

theorem byteOf_getLsbD (v : Word) (k j : Nat) : (byteOf v k).getLsbD j = (decide (j < 8) && v.getLsbD (8 * k + j)) := by
  simp [byteOf, BitVec.getLsbD_extractLsb']

theorem byteOf_getElem (v : Word) (k j : Nat) (h : j < 8) : (byteOf v k)[j] = v.getLsbD (8 * k + j) := by
  rw [← BitVec.getLsbD_eq_getElem, byteOf_getLsbD]
  simp [h]

theorem le32_leBytes32 (v : Word) : le32 (byteOf v 0) (byteOf v 1) (byteOf v 2) (byteOf v 3) = v := by
  apply BitVec.eq_of_getLsbD_eq
  intro i hi
  simp only [le32, BitVec.getLsbD_or, BitVec.getLsbD_shiftLeft, BitVec.getLsbD_setWidth, byteOf_getLsbD]
  interval_cases i <;> simp

theorem byteOf_le32 (b0 b1 b2 b3 : Byte) :
    byteOf (le32 b0 b1 b2 b3) 0 = b0 ∧ byteOf (le32 b0 b1 b2 b3) 1 = b1 ∧ byteOf (le32 b0 b1 b2 b3) 2 = b2 ∧
      byteOf (le32 b0 b1 b2 b3) 3 = b3 := by
  refine ⟨?_, ?_, ?_, ?_⟩ <;>
  · apply BitVec.eq_of_getLsbD_eq
    intro i hi
    simp only [le32, BitVec.getLsbD_or, BitVec.getLsbD_shiftLeft, BitVec.getLsbD_setWidth, byteOf_getLsbD]
    interval_cases i <;> simp

theorem leBytes32_le32 (b0 b1 b2 b3 : Byte) : leBytes32 (le32 b0 b1 b2 b3) = [b0, b1, b2, b3] := by
  obtain ⟨h0, h1, h2, h3⟩ := byteOf_le32 b0 b1 b2 b3
  simp [leBytes32, h0, h1, h2, h3]

theorem beByte24_getLsbD (a : BusAddr) (k j : Nat) :
    (beByte24 a k).getLsbD j = (decide (j < 8) && a.getLsbD (8 * (2 - k) + j)) := by
  simp [beByte24, BitVec.getLsbD_extractLsb']

theorem be24_beBytes24 (a : BusAddr) : be24 (beByte24 a 0) (beByte24 a 1) (beByte24 a 2) = a := by
  apply BitVec.eq_of_getLsbD_eq
  intro i hi
  simp only [be24, BitVec.getLsbD_or, BitVec.getLsbD_shiftLeft, BitVec.getLsbD_setWidth, beByte24_getLsbD]
  interval_cases i <;> simp

theorem beBytes24_be24 (b0 b1 b2 : Byte) : beBytes24 (be24 b0 b1 b2) = [b0, b1, b2] := by
  simp only [beBytes24, List.cons.injEq, and_true]
  refine ⟨?_, ?_, ?_⟩ <;>
  · apply BitVec.eq_of_getLsbD_eq
    intro i hi
    simp only [be24, BitVec.getLsbD_or, BitVec.getLsbD_shiftLeft, BitVec.getLsbD_setWidth, beByte24_getLsbD]
    interval_cases i <;> simp

@[simp] theorem leBytes32_length (v : Word) : (leBytes32 v).length = 4 := rfl

@[simp] theorem beBytes24_length (a : BusAddr) : (beBytes24 a).length = 3 := rfl

namespace Machine

/-- Four bytes written over a 32-bit register, lowest first, are `LE32` of them: no bit of the old value is left (R141). -/
theorem setByte_four (v : Word) (b0 b1 b2 b3 : Byte) :
    setByte (setByte (setByte (setByte v 0 b0) 1 b1) 2 b2) 3 b3 = le32 b0 b1 b2 b3 := by
  apply BitVec.eq_of_getLsbD_eq
  intro i hi
  simp only [setByte, le32, BitVec.getLsbD_or, BitVec.getLsbD_and, BitVec.getLsbD_not, BitVec.getLsbD_shiftLeft,
    BitVec.getLsbD_setWidth]
  interval_cases i <;> simp

/-- Byte `j` of a register after byte `k` has been written. -/
theorem byteOf_setByte (v : Word) (b : Byte) {k j : Nat} (hk : k < 4) (hj : j < 4) :
    byteOf (setByte v k b) j = if j = k then b else byteOf v j := by
  apply BitVec.eq_of_getLsbD_eq
  intro i hi
  rw [byteOf_getLsbD, setByte]
  simp only [BitVec.getLsbD_or, BitVec.getLsbD_and, BitVec.getLsbD_not, BitVec.getLsbD_shiftLeft, BitVec.getLsbD_setWidth]
  interval_cases k <;> interval_cases j <;> interval_cases i <;> simp [byteOf_getElem]

end Machine

end Sys2Proof
end

