-- ==== Sys2Proof/Laws/Memory.lean ====
section
/-! SUPPORT. The flash array: a read after a write gives the byte written, a write leaves every other address alone, and every
operation keeps the canonical form. -/

namespace Sys2Proof.Machine

theorem Memory.read_entry (a : Nat) (b : Byte) (m : Memory) (x : Nat) (hm : x = a → Memory.read m a = Memory.erased) :
    Memory.read (Memory.entry a b m) x = if x = a then b else Memory.read m x := by
  unfold Memory.entry
  split
  · rename_i h
    split
    · rename_i hx; subst hx; rw [hm rfl, h]
    · rfl
  · simp only [Memory.read]
    split
    · rename_i h; simp [h]
    · rename_i h; rw [if_neg (fun e => h e.symm)]

theorem Memory.wfFrom_mono {lo lo' : Nat} {m : Memory} (h : lo' ≤ lo) (hw : Memory.wfFrom lo m = true) :
    Memory.wfFrom lo' m = true := by
  cases m with
  | nil => rfl
  | cons p m =>
    obtain ⟨x, v⟩ := p
    simp only [Memory.wfFrom, Bool.and_eq_true, decide_eq_true_eq] at hw ⊢
    exact ⟨⟨by omega, hw.1.2⟩, hw.2⟩

theorem Memory.read_below {lo : Nat} {m : Memory} (hw : Memory.wfFrom lo m = true) {a : Nat} (ha : a < lo) :
    Memory.read m a = Memory.erased := by
  induction m generalizing lo with
  | nil => rfl
  | cons p m ih =>
    obtain ⟨x, v⟩ := p
    simp only [Memory.wfFrom, Bool.and_eq_true, decide_eq_true_eq] at hw
    simp only [Memory.read]
    rw [if_neg (by omega)]
    exact ih hw.2 (by omega)

theorem Memory.wfFrom_entry {lo a : Nat} {m : Memory} (b : Byte) (hlo : lo ≤ a) (hw : Memory.wfFrom (a + 1) m = true) :
    Memory.wfFrom lo (Memory.entry a b m) = true := by
  unfold Memory.entry
  split
  · exact Memory.wfFrom_mono (by omega) hw
  · rename_i h
    simp [Memory.wfFrom, hlo, h, hw]

theorem Memory.wfFrom_write {lo a : Nat} {m : Memory} (b : Byte) (hlo : lo ≤ a) (hw : Memory.wfFrom lo m = true) :
    Memory.wfFrom lo (Memory.write m a b) = true := by
  induction m generalizing lo with
  | nil => exact Memory.wfFrom_entry b hlo rfl
  | cons p m ih =>
    obtain ⟨x, v⟩ := p
    have hw' := hw
    simp only [Memory.wfFrom, Bool.and_eq_true, decide_eq_true_eq] at hw'
    simp only [Memory.write]
    split
    · apply Memory.wfFrom_entry b hlo
      simp only [Memory.wfFrom, Bool.and_eq_true, decide_eq_true_eq]
      exact ⟨⟨by omega, hw'.1.2⟩, hw'.2⟩
    · split
      · rename_i _ h
        exact Memory.wfFrom_entry b hlo (h ▸ hw'.2)
      · simp only [Memory.wfFrom, Bool.and_eq_true, decide_eq_true_eq]
        exact ⟨hw'.1, ih (by omega) hw'.2⟩

/-- Every write keeps the canonical form. -/
theorem Memory.wf_write {m : Memory} (a : Nat) (b : Byte) (hw : Memory.wf m = true) : Memory.wf (Memory.write m a b) = true :=
  Memory.wfFrom_write b (Nat.zero_le a) hw

theorem Memory.read_write_from {lo : Nat} {m : Memory} (a : Nat) (b : Byte) (x : Nat) (hw : Memory.wfFrom lo m = true) :
    Memory.read (Memory.write m a b) x = if x = a then b else Memory.read m x := by
  induction m generalizing lo with
  | nil => exact Memory.read_entry a b [] x (fun _ => rfl)
  | cons p m ih =>
    obtain ⟨y, v⟩ := p
    have hw' := hw
    simp only [Memory.wfFrom, Bool.and_eq_true, decide_eq_true_eq] at hw'
    simp only [Memory.write]
    split
    · rename_i hlt
      refine Memory.read_entry a b _ x (fun _ => ?_)
      simp only [Memory.read]
      rw [if_neg (by omega)]
      exact Memory.read_below hw'.2 (by omega)
    · split
      · rename_i _ h
        subst h
        rw [Memory.read_entry a b m x (fun _ => Memory.read_below hw'.2 (by omega))]
        simp only [Memory.read]
        split
        · rfl
        · rename_i hx; rw [if_neg (fun e => hx e.symm)]
      · rename_i _ hne
        simp only [Memory.read]
        split
        · rename_i hy; rw [if_neg (by omega)]
        · exact ih hw'.2

/-- A read after a write: the byte written at its address, and what was there at every other address. -/
theorem Memory.read_write {m : Memory} (a : Nat) (b : Byte) (x : Nat) (hw : Memory.wf m = true) :
    Memory.read (Memory.write m a b) x = if x = a then b else Memory.read m x :=
  Memory.read_write_from a b x hw

theorem Memory.wf_writeN {m : Memory} (a : Nat) (bs : List Byte) (hw : Memory.wf m = true) :
    Memory.wf (Memory.writeN m a bs) = true := by
  induction bs generalizing m a with
  | nil => exact hw
  | cons b bs ih => exact ih (a + 1) (Memory.wf_write a b hw)

end Sys2Proof.Machine
end

