-- ==== Sys2Proof/Laws/Chip.lean ====
section
/-! SUPPORT. The chip: what selecting, exchanging and releasing do to the flash array, to the transaction in progress and to the
canonical form. -/

namespace Sys2Proof.Machine

/-! ### RefChip -/

@[simp] theorem RefChip.select_mem (c : RefChip) : c.select.mem = c.mem := rfl
@[simp] theorem RefChip.select_capLog (c : RefChip) : c.select.capLog = c.capLog := rfl
@[simp] theorem RefChip.select_wel (c : RefChip) : c.select.wel = c.wel := rfl
@[simp] theorem RefChip.select_cmd (c : RefChip) : c.select.cmd = [] := rfl

@[simp] theorem RefChip.programByte_capLog (c : RefChip) (p : Nat) (d : Byte) : (c.programByte p d).capLog = c.capLog := rfl
@[simp] theorem RefChip.programByte_cmd (c : RefChip) (p : Nat) (d : Byte) : (c.programByte p d).cmd = c.cmd := rfl

@[simp] theorem RefChip.programFrom_capLog (c : RefChip) (a : BusAddr) (i : Nat) (ds : List Byte) :
    (c.programFrom a i ds).capLog = c.capLog := by
  induction ds generalizing c i with
  | nil => rfl
  | cons d ds ih => simp [RefChip.programFrom, ih]

@[simp] theorem RefChip.finishWrite_mem (c : RefChip) (n : Nat) : (c.finishWrite n).mem = c.mem := by
  unfold RefChip.finishWrite; split <;> rfl

@[simp] theorem RefChip.finishWrite_capLog (c : RefChip) (n : Nat) : (c.finishWrite n).capLog = c.capLog := by
  unfold RefChip.finishWrite; split <;> rfl

/-- An exchange touches no byte of the array, and the byte sent joins the transaction. -/
theorem RefChip.exchange_snd (c : RefChip) (o : Byte) :
    (c.exchange o).2.mem = c.mem ∧ (c.exchange o).2.capLog = c.capLog ∧ (c.exchange o).2.wel = c.wel ∧
      (c.exchange o).2.cmd = c.cmd ++ [o] := by
  unfold RefChip.exchange
  dsimp only
  cases c.cmd with
  | nil => exact ⟨rfl, rfl, rfl, rfl⟩
  | cons op args =>
    dsimp only
    split_ifs
    · exact ⟨rfl, rfl, rfl, rfl⟩
    · split <;> exact ⟨rfl, rfl, rfl, rfl⟩
    · exact ⟨rfl, rfl, rfl, rfl⟩
    · exact ⟨rfl, rfl, rfl, rfl⟩

@[simp] theorem RefChip.exchange_mem (c : RefChip) (o : Byte) : (c.exchange o).2.mem = c.mem := (c.exchange_snd o).1
@[simp] theorem RefChip.exchange_capLog (c : RefChip) (o : Byte) : (c.exchange o).2.capLog = c.capLog := (c.exchange_snd o).2.1
@[simp] theorem RefChip.exchange_wel (c : RefChip) (o : Byte) : (c.exchange o).2.wel = c.wel := (c.exchange_snd o).2.2.1
@[simp] theorem RefChip.exchange_cmd (c : RefChip) (o : Byte) : (c.exchange o).2.cmd = c.cmd ++ [o] := (c.exchange_snd o).2.2.2

/-- Two chips with the same array and capacity show the same bytes. -/
theorem RefChip.peek_congr {c d : RefChip} (hm : c.mem = d.mem) (hc : c.capLog = d.capLog) (x : Nat) : c.peek x = d.peek x := by
  simp [RefChip.peek, RefChip.capacity, hm, hc]

/-- One byte programmed: AND at its address, every other address as before. -/
theorem RefChip.peek_programByte {c : RefChip} (p : Nat) (d : Byte) (x : Nat) (hw : Memory.wf c.mem = true) :
    (c.programByte p d).peek x = if x % c.capacity = p % c.capacity then c.peek p &&& d else c.peek x :=
  Memory.read_write (p % c.capacity) (c.peek p &&& d) (x % c.capacity) hw

theorem RefChip.wf_programByte {c : RefChip} (p : Nat) (d : Byte) (hw : Memory.wf c.mem = true) :
    Memory.wf (c.programByte p d).mem = true := Memory.wf_write _ _ hw

theorem RefChip.wf_programFrom {c : RefChip} (a : BusAddr) (i : Nat) (ds : List Byte) (hw : Memory.wf c.mem = true) :
    Memory.wf (c.programFrom a i ds).mem = true := by
  induction ds generalizing c i with
  | nil => exact hw
  | cons d ds ih => exact ih (i + 1) (RefChip.wf_programByte _ d hw)

/-- A Page Program leaves alone every address none of its payload bytes is for. -/
theorem RefChip.peek_programFrom_ne {c : RefChip} (a : BusAddr) (i : Nat) (ds : List Byte) (x : Nat)
    (hw : Memory.wf c.mem = true)
    (hx : ∀ j, i ≤ j → j < i + ds.length → x % c.capacity ≠ (RefChip.pageAddr a j).toNat % c.capacity) :
    (c.programFrom a i ds).peek x = c.peek x := by
  induction ds generalizing c i with
  | nil => rfl
  | cons d ds ih =>
    simp only [List.length_cons] at hx
    rw [RefChip.programFrom, ih (i + 1) (RefChip.wf_programByte _ d hw) (fun j h1 h2 => hx j (by omega) (by omega)),
      RefChip.peek_programByte _ d x hw, if_neg (hx i (Nat.le_refl i) (by omega))]

/-- What a transaction that has ended does to the array: nothing, unless it is a Page Program or a Chip Erase with the latch set. -/
theorem RefChip.perform_mem (c : RefChip) (n : Nat) (r : Except DecodeError BusCmd) :
    (c.perform n r).mem = c.mem ∨
      (∃ a payload, r = .ok (.program a payload) ∧ c.wel = true ∧ (c.perform n r).mem = (c.programFrom a 0 payload).mem) ∨
      (r = .ok .chipErase ∧ c.wel = true ∧ (c.perform n r).mem = []) := by
  unfold RefChip.perform
  split
  · exact .inl rfl
  · rename_i a payload
    cases hw : c.wel
    · exact .inl rfl
    · exact .inr (.inl ⟨a, payload, rfl, rfl, by simp⟩)
  · cases hw : c.wel
    · exact .inl rfl
    · exact .inr (.inr ⟨rfl, rfl, by simp⟩)
  · exact .inl rfl
  · exact .inl rfl
  · exact .inl rfl
  · exact .inl rfl

@[simp] theorem RefChip.perform_capLog (c : RefChip) (n : Nat) (r : Except DecodeError BusCmd) :
    (c.perform n r).capLog = c.capLog := by
  unfold RefChip.perform
  split
  · rfl
  · split <;> simp
  · split <;> simp
  all_goals rfl

theorem RefChip.wf_perform {c : RefChip} (n : Nat) (r : Except DecodeError BusCmd) (hw : Memory.wf c.mem = true) :
    Memory.wf (c.perform n r).mem = true := by
  obtain h | ⟨a, payload, _, _, h⟩ | ⟨_, _, h⟩ := c.perform_mem n r <;> rw [h]
  · exact hw
  · exact RefChip.wf_programFrom a 0 payload hw
  · rfl

@[simp] theorem RefChip.deselect_mem (c : RefChip) (n : Nat) : (c.deselect n).mem = (c.perform n (decodeBusCmd c.cmd)).mem := rfl
@[simp] theorem RefChip.deselect_capLog (c : RefChip) (n : Nat) : (c.deselect n).capLog = c.capLog := by
  simp [RefChip.deselect]

/-! ### The chip on the bus -/

theorem Chip.wf_select {c : Chip} (h : c.wf = true) : c.select.wf = true := by cases c <;> exact h

theorem Chip.wf_exchange {c : Chip} (hist : List Event) (o : Byte) (h : c.wf = true) : (c.exchange hist o).2.wf = true := by
  cases c with
  | oracle p => cases p <;> rfl
  | steady p b => cases p <;> rfl
  | ref c => simpa [Chip.exchange, Chip.wf] using h

theorem Chip.wf_deselect {c : Chip} (hist : List Event) (h : c.wf = true) : (c.deselect hist).wf = true := by
  cases c with
  | oracle p => rfl
  | steady p b => rfl
  | ref c => exact RefChip.wf_perform _ _ h

theorem Chip.wf_cutShort {c : Chip} (h : c.wf = true) : c.cutShort.wf = true := by cases c with
  | oracle p => exact h
  | steady p b => exact h
  | ref c => rfl

@[simp] theorem Chip.flash_select (c : Chip) (x : Nat) : c.select.flash x = c.flash x := by
  cases c with
  | oracle p => rfl
  | steady p b => rfl
  | ref c => exact congrArg some (RefChip.peek_congr rfl rfl x)

@[simp] theorem Chip.flash_exchange (c : Chip) (hist : List Event) (o : Byte) (x : Nat) :
    (c.exchange hist o).2.flash x = c.flash x := by
  cases c with
  | oracle p => cases p <;> rfl
  | steady p b => cases p <;> rfl
  | ref c => exact congrArg some (RefChip.peek_congr (by simp) (by simp) x)

end Sys2Proof.Machine
end

