-- ==== Sys2Proof/Laws/Config.lean ====
section
/-! SUPPORT. The parameters of spec/00_scope.md R8 keep their domains, whatever their values. -/

namespace Sys2Proof.Config

/-- RX_DEPTH is at least 1. -/
theorem rxDepth_pos : 1 ≤ rxDepth := Nat.le_add_left 1 _

/-- F_CLK is not 0. -/
theorem clockHz_pos : 1 ≤ clockHz := Nat.le_add_left 1 _

/-- A delay counter is sized to at least T·F_CLK cycles (D29), and to less than one more. -/
theorem delayCycles_bounds (k : WaitKind) :
    waitNs k * clockHz ≤ delayCycles k * 1000000000 ∧ delayCycles k * 1000000000 < waitNs k * clockHz + 1000000000 := by
  unfold delayCycles
  omega

end Sys2Proof.Config
end

