-- ==== Sys2Proof/Laws/State.lean ====
section
/-! SUPPORT. What each update of the state does to each field: one lemma per field per update, so that no proof unfolds an
update. -/

namespace Sys2Proof.Machine

variable (s : State)

@[simp] theorem State.goto_phase (p : Phase) : (s.goto p).phase = p := rfl
@[simp] theorem State.goto_addr (p : Phase) : (s.goto p).addr = s.addr := rfl
@[simp] theorem State.goto_rem (p : Phase) : (s.goto p).rem = s.rem := rfl
@[simp] theorem State.goto_chunk (p : Phase) : (s.goto p).chunk = s.chunk := rfl
@[simp] theorem State.goto_buf (p : Phase) : (s.goto p).buf = s.buf := rfl
@[simp] theorem State.goto_jedec (p : Phase) : (s.goto p).jedec = s.jedec := rfl
@[simp] theorem State.goto_cap (p : Phase) : (s.goto p).cap = s.cap := rfl
@[simp] theorem State.goto_sr (p : Phase) : (s.goto p).sr = s.sr := rfl
@[simp] theorem State.goto_xop (p : Phase) : (s.goto p).xop = s.xop := rfl
@[simp] theorem State.goto_xhasAddr (p : Phase) : (s.goto p).xhasAddr = s.xhasAddr := rfl
@[simp] theorem State.goto_xaddr (p : Phase) : (s.goto p).xaddr = s.xaddr := rfl
@[simp] theorem State.goto_xnpay (p : Phase) : (s.goto p).xnpay = s.xnpay := rfl
@[simp] theorem State.goto_xnresp (p : Phase) : (s.goto p).xnresp = s.xnresp := rfl
@[simp] theorem State.goto_xdst (p : Phase) : (s.goto p).xdst = s.xdst := rfl
@[simp] theorem State.goto_xret (p : Phase) : (s.goto p).xret = s.xret := rfl
@[simp] theorem State.goto_csActive (p : Phase) : (s.goto p).csActive = s.csActive := rfl
@[simp] theorem State.goto_rst (p : Phase) : (s.goto p).rst = s.rst := rfl
@[simp] theorem State.goto_txReady (p : Phase) : (s.goto p).txReady = s.txReady := rfl
@[simp] theorem State.goto_rxq (p : Phase) : (s.goto p).rxq = s.rxq := rfl
@[simp] theorem State.goto_inputs (p : Phase) : (s.goto p).inputs = s.inputs := rfl
@[simp] theorem State.goto_chip (p : Phase) : (s.goto p).chip = s.chip := rfl
@[simp] theorem State.goto_hist (p : Phase) : (s.goto p).hist = s.hist := rfl

@[simp] theorem State.log_phase (e : Event) : (s.log e).phase = s.phase := rfl
@[simp] theorem State.log_addr (e : Event) : (s.log e).addr = s.addr := rfl
@[simp] theorem State.log_rem (e : Event) : (s.log e).rem = s.rem := rfl
@[simp] theorem State.log_chunk (e : Event) : (s.log e).chunk = s.chunk := rfl
@[simp] theorem State.log_buf (e : Event) : (s.log e).buf = s.buf := rfl
@[simp] theorem State.log_jedec (e : Event) : (s.log e).jedec = s.jedec := rfl
@[simp] theorem State.log_cap (e : Event) : (s.log e).cap = s.cap := rfl
@[simp] theorem State.log_sr (e : Event) : (s.log e).sr = s.sr := rfl
@[simp] theorem State.log_xop (e : Event) : (s.log e).xop = s.xop := rfl
@[simp] theorem State.log_xhasAddr (e : Event) : (s.log e).xhasAddr = s.xhasAddr := rfl
@[simp] theorem State.log_xaddr (e : Event) : (s.log e).xaddr = s.xaddr := rfl
@[simp] theorem State.log_xnpay (e : Event) : (s.log e).xnpay = s.xnpay := rfl
@[simp] theorem State.log_xnresp (e : Event) : (s.log e).xnresp = s.xnresp := rfl
@[simp] theorem State.log_xdst (e : Event) : (s.log e).xdst = s.xdst := rfl
@[simp] theorem State.log_xret (e : Event) : (s.log e).xret = s.xret := rfl
@[simp] theorem State.log_csActive (e : Event) : (s.log e).csActive = s.csActive := rfl
@[simp] theorem State.log_rst (e : Event) : (s.log e).rst = s.rst := rfl
@[simp] theorem State.log_txReady (e : Event) : (s.log e).txReady = s.txReady := rfl
@[simp] theorem State.log_rxq (e : Event) : (s.log e).rxq = s.rxq := rfl
@[simp] theorem State.log_inputs (e : Event) : (s.log e).inputs = s.inputs := rfl
@[simp] theorem State.log_chip (e : Event) : (s.log e).chip = s.chip := rfl
@[simp] theorem State.log_hist (e : Event) : (s.log e).hist = s.hist ++ [e] := rfl

@[simp] theorem State.setRxq_phase (q : List Byte) : (s.setRxq q).phase = s.phase := rfl
@[simp] theorem State.setRxq_addr (q : List Byte) : (s.setRxq q).addr = s.addr := rfl
@[simp] theorem State.setRxq_rem (q : List Byte) : (s.setRxq q).rem = s.rem := rfl
@[simp] theorem State.setRxq_chunk (q : List Byte) : (s.setRxq q).chunk = s.chunk := rfl
@[simp] theorem State.setRxq_buf (q : List Byte) : (s.setRxq q).buf = s.buf := rfl
@[simp] theorem State.setRxq_jedec (q : List Byte) : (s.setRxq q).jedec = s.jedec := rfl
@[simp] theorem State.setRxq_cap (q : List Byte) : (s.setRxq q).cap = s.cap := rfl
@[simp] theorem State.setRxq_sr (q : List Byte) : (s.setRxq q).sr = s.sr := rfl
@[simp] theorem State.setRxq_xop (q : List Byte) : (s.setRxq q).xop = s.xop := rfl
@[simp] theorem State.setRxq_xhasAddr (q : List Byte) : (s.setRxq q).xhasAddr = s.xhasAddr := rfl
@[simp] theorem State.setRxq_xaddr (q : List Byte) : (s.setRxq q).xaddr = s.xaddr := rfl
@[simp] theorem State.setRxq_xnpay (q : List Byte) : (s.setRxq q).xnpay = s.xnpay := rfl
@[simp] theorem State.setRxq_xnresp (q : List Byte) : (s.setRxq q).xnresp = s.xnresp := rfl
@[simp] theorem State.setRxq_xdst (q : List Byte) : (s.setRxq q).xdst = s.xdst := rfl
@[simp] theorem State.setRxq_xret (q : List Byte) : (s.setRxq q).xret = s.xret := rfl
@[simp] theorem State.setRxq_csActive (q : List Byte) : (s.setRxq q).csActive = s.csActive := rfl
@[simp] theorem State.setRxq_rst (q : List Byte) : (s.setRxq q).rst = s.rst := rfl
@[simp] theorem State.setRxq_txReady (q : List Byte) : (s.setRxq q).txReady = s.txReady := rfl
@[simp] theorem State.setRxq_rxq (q : List Byte) : (s.setRxq q).rxq = q := rfl
@[simp] theorem State.setRxq_inputs (q : List Byte) : (s.setRxq q).inputs = s.inputs := rfl
@[simp] theorem State.setRxq_chip (q : List Byte) : (s.setRxq q).chip = s.chip := rfl
@[simp] theorem State.setRxq_hist (q : List Byte) : (s.setRxq q).hist = s.hist := rfl

@[simp] theorem State.setAddr_phase (v : Word) : (s.setAddr v).phase = s.phase := rfl
@[simp] theorem State.setAddr_addr (v : Word) : (s.setAddr v).addr = v := rfl
@[simp] theorem State.setAddr_rem (v : Word) : (s.setAddr v).rem = s.rem := rfl
@[simp] theorem State.setAddr_chunk (v : Word) : (s.setAddr v).chunk = s.chunk := rfl
@[simp] theorem State.setAddr_buf (v : Word) : (s.setAddr v).buf = s.buf := rfl
@[simp] theorem State.setAddr_jedec (v : Word) : (s.setAddr v).jedec = s.jedec := rfl
@[simp] theorem State.setAddr_cap (v : Word) : (s.setAddr v).cap = s.cap := rfl
@[simp] theorem State.setAddr_sr (v : Word) : (s.setAddr v).sr = s.sr := rfl
@[simp] theorem State.setAddr_xop (v : Word) : (s.setAddr v).xop = s.xop := rfl
@[simp] theorem State.setAddr_xhasAddr (v : Word) : (s.setAddr v).xhasAddr = s.xhasAddr := rfl
@[simp] theorem State.setAddr_xaddr (v : Word) : (s.setAddr v).xaddr = s.xaddr := rfl
@[simp] theorem State.setAddr_xnpay (v : Word) : (s.setAddr v).xnpay = s.xnpay := rfl
@[simp] theorem State.setAddr_xnresp (v : Word) : (s.setAddr v).xnresp = s.xnresp := rfl
@[simp] theorem State.setAddr_xdst (v : Word) : (s.setAddr v).xdst = s.xdst := rfl
@[simp] theorem State.setAddr_xret (v : Word) : (s.setAddr v).xret = s.xret := rfl
@[simp] theorem State.setAddr_csActive (v : Word) : (s.setAddr v).csActive = s.csActive := rfl
@[simp] theorem State.setAddr_rst (v : Word) : (s.setAddr v).rst = s.rst := rfl
@[simp] theorem State.setAddr_txReady (v : Word) : (s.setAddr v).txReady = s.txReady := rfl
@[simp] theorem State.setAddr_rxq (v : Word) : (s.setAddr v).rxq = s.rxq := rfl
@[simp] theorem State.setAddr_inputs (v : Word) : (s.setAddr v).inputs = s.inputs := rfl
@[simp] theorem State.setAddr_chip (v : Word) : (s.setAddr v).chip = s.chip := rfl
@[simp] theorem State.setAddr_hist (v : Word) : (s.setAddr v).hist = s.hist := rfl

@[simp] theorem State.setRem_phase (v : Word) : (s.setRem v).phase = s.phase := rfl
@[simp] theorem State.setRem_addr (v : Word) : (s.setRem v).addr = s.addr := rfl
@[simp] theorem State.setRem_rem (v : Word) : (s.setRem v).rem = v := rfl
@[simp] theorem State.setRem_chunk (v : Word) : (s.setRem v).chunk = s.chunk := rfl
@[simp] theorem State.setRem_buf (v : Word) : (s.setRem v).buf = s.buf := rfl
@[simp] theorem State.setRem_jedec (v : Word) : (s.setRem v).jedec = s.jedec := rfl
@[simp] theorem State.setRem_cap (v : Word) : (s.setRem v).cap = s.cap := rfl
@[simp] theorem State.setRem_sr (v : Word) : (s.setRem v).sr = s.sr := rfl
@[simp] theorem State.setRem_xop (v : Word) : (s.setRem v).xop = s.xop := rfl
@[simp] theorem State.setRem_xhasAddr (v : Word) : (s.setRem v).xhasAddr = s.xhasAddr := rfl
@[simp] theorem State.setRem_xaddr (v : Word) : (s.setRem v).xaddr = s.xaddr := rfl
@[simp] theorem State.setRem_xnpay (v : Word) : (s.setRem v).xnpay = s.xnpay := rfl
@[simp] theorem State.setRem_xnresp (v : Word) : (s.setRem v).xnresp = s.xnresp := rfl
@[simp] theorem State.setRem_xdst (v : Word) : (s.setRem v).xdst = s.xdst := rfl
@[simp] theorem State.setRem_xret (v : Word) : (s.setRem v).xret = s.xret := rfl
@[simp] theorem State.setRem_csActive (v : Word) : (s.setRem v).csActive = s.csActive := rfl
@[simp] theorem State.setRem_rst (v : Word) : (s.setRem v).rst = s.rst := rfl
@[simp] theorem State.setRem_txReady (v : Word) : (s.setRem v).txReady = s.txReady := rfl
@[simp] theorem State.setRem_rxq (v : Word) : (s.setRem v).rxq = s.rxq := rfl
@[simp] theorem State.setRem_inputs (v : Word) : (s.setRem v).inputs = s.inputs := rfl
@[simp] theorem State.setRem_chip (v : Word) : (s.setRem v).chip = s.chip := rfl
@[simp] theorem State.setRem_hist (v : Word) : (s.setRem v).hist = s.hist := rfl

@[simp] theorem State.setChunk_phase (v : Count) : (s.setChunk v).phase = s.phase := rfl
@[simp] theorem State.setChunk_addr (v : Count) : (s.setChunk v).addr = s.addr := rfl
@[simp] theorem State.setChunk_rem (v : Count) : (s.setChunk v).rem = s.rem := rfl
@[simp] theorem State.setChunk_chunk (v : Count) : (s.setChunk v).chunk = v := rfl
@[simp] theorem State.setChunk_buf (v : Count) : (s.setChunk v).buf = s.buf := rfl
@[simp] theorem State.setChunk_jedec (v : Count) : (s.setChunk v).jedec = s.jedec := rfl
@[simp] theorem State.setChunk_cap (v : Count) : (s.setChunk v).cap = s.cap := rfl
@[simp] theorem State.setChunk_sr (v : Count) : (s.setChunk v).sr = s.sr := rfl
@[simp] theorem State.setChunk_xop (v : Count) : (s.setChunk v).xop = s.xop := rfl
@[simp] theorem State.setChunk_xhasAddr (v : Count) : (s.setChunk v).xhasAddr = s.xhasAddr := rfl
@[simp] theorem State.setChunk_xaddr (v : Count) : (s.setChunk v).xaddr = s.xaddr := rfl
@[simp] theorem State.setChunk_xnpay (v : Count) : (s.setChunk v).xnpay = s.xnpay := rfl
@[simp] theorem State.setChunk_xnresp (v : Count) : (s.setChunk v).xnresp = s.xnresp := rfl
@[simp] theorem State.setChunk_xdst (v : Count) : (s.setChunk v).xdst = s.xdst := rfl
@[simp] theorem State.setChunk_xret (v : Count) : (s.setChunk v).xret = s.xret := rfl
@[simp] theorem State.setChunk_csActive (v : Count) : (s.setChunk v).csActive = s.csActive := rfl
@[simp] theorem State.setChunk_rst (v : Count) : (s.setChunk v).rst = s.rst := rfl
@[simp] theorem State.setChunk_txReady (v : Count) : (s.setChunk v).txReady = s.txReady := rfl
@[simp] theorem State.setChunk_rxq (v : Count) : (s.setChunk v).rxq = s.rxq := rfl
@[simp] theorem State.setChunk_inputs (v : Count) : (s.setChunk v).inputs = s.inputs := rfl
@[simp] theorem State.setChunk_chip (v : Count) : (s.setChunk v).chip = s.chip := rfl
@[simp] theorem State.setChunk_hist (v : Count) : (s.setChunk v).hist = s.hist := rfl

@[simp] theorem State.setBuf_phase (i : Fin 256) (b : Byte) : (s.setBuf i b).phase = s.phase := rfl
@[simp] theorem State.setBuf_addr (i : Fin 256) (b : Byte) : (s.setBuf i b).addr = s.addr := rfl
@[simp] theorem State.setBuf_rem (i : Fin 256) (b : Byte) : (s.setBuf i b).rem = s.rem := rfl
@[simp] theorem State.setBuf_chunk (i : Fin 256) (b : Byte) : (s.setBuf i b).chunk = s.chunk := rfl
@[simp] theorem State.setBuf_buf (i : Fin 256) (b : Byte) : (s.setBuf i b).buf = s.buf.set i.val b := rfl
@[simp] theorem State.setBuf_jedec (i : Fin 256) (b : Byte) : (s.setBuf i b).jedec = s.jedec := rfl
@[simp] theorem State.setBuf_cap (i : Fin 256) (b : Byte) : (s.setBuf i b).cap = s.cap := rfl
@[simp] theorem State.setBuf_sr (i : Fin 256) (b : Byte) : (s.setBuf i b).sr = s.sr := rfl
@[simp] theorem State.setBuf_xop (i : Fin 256) (b : Byte) : (s.setBuf i b).xop = s.xop := rfl
@[simp] theorem State.setBuf_xhasAddr (i : Fin 256) (b : Byte) : (s.setBuf i b).xhasAddr = s.xhasAddr := rfl
@[simp] theorem State.setBuf_xaddr (i : Fin 256) (b : Byte) : (s.setBuf i b).xaddr = s.xaddr := rfl
@[simp] theorem State.setBuf_xnpay (i : Fin 256) (b : Byte) : (s.setBuf i b).xnpay = s.xnpay := rfl
@[simp] theorem State.setBuf_xnresp (i : Fin 256) (b : Byte) : (s.setBuf i b).xnresp = s.xnresp := rfl
@[simp] theorem State.setBuf_xdst (i : Fin 256) (b : Byte) : (s.setBuf i b).xdst = s.xdst := rfl
@[simp] theorem State.setBuf_xret (i : Fin 256) (b : Byte) : (s.setBuf i b).xret = s.xret := rfl
@[simp] theorem State.setBuf_csActive (i : Fin 256) (b : Byte) : (s.setBuf i b).csActive = s.csActive := rfl
@[simp] theorem State.setBuf_rst (i : Fin 256) (b : Byte) : (s.setBuf i b).rst = s.rst := rfl
@[simp] theorem State.setBuf_txReady (i : Fin 256) (b : Byte) : (s.setBuf i b).txReady = s.txReady := rfl
@[simp] theorem State.setBuf_rxq (i : Fin 256) (b : Byte) : (s.setBuf i b).rxq = s.rxq := rfl
@[simp] theorem State.setBuf_inputs (i : Fin 256) (b : Byte) : (s.setBuf i b).inputs = s.inputs := rfl
@[simp] theorem State.setBuf_chip (i : Fin 256) (b : Byte) : (s.setBuf i b).chip = s.chip := rfl
@[simp] theorem State.setBuf_hist (i : Fin 256) (b : Byte) : (s.setBuf i b).hist = s.hist := rfl

@[simp] theorem State.setJedec_phase (i : Nat) (b : Byte) : (s.setJedec i b).phase = s.phase := rfl
@[simp] theorem State.setJedec_addr (i : Nat) (b : Byte) : (s.setJedec i b).addr = s.addr := rfl
@[simp] theorem State.setJedec_rem (i : Nat) (b : Byte) : (s.setJedec i b).rem = s.rem := rfl
@[simp] theorem State.setJedec_chunk (i : Nat) (b : Byte) : (s.setJedec i b).chunk = s.chunk := rfl
@[simp] theorem State.setJedec_buf (i : Nat) (b : Byte) : (s.setJedec i b).buf = s.buf := rfl
@[simp] theorem State.setJedec_jedec (i : Nat) (b : Byte) : (s.setJedec i b).jedec = if h : i < 3 then s.jedec.set i b else s.jedec := rfl
@[simp] theorem State.setJedec_cap (i : Nat) (b : Byte) : (s.setJedec i b).cap = s.cap := rfl
@[simp] theorem State.setJedec_sr (i : Nat) (b : Byte) : (s.setJedec i b).sr = s.sr := rfl
@[simp] theorem State.setJedec_xop (i : Nat) (b : Byte) : (s.setJedec i b).xop = s.xop := rfl
@[simp] theorem State.setJedec_xhasAddr (i : Nat) (b : Byte) : (s.setJedec i b).xhasAddr = s.xhasAddr := rfl
@[simp] theorem State.setJedec_xaddr (i : Nat) (b : Byte) : (s.setJedec i b).xaddr = s.xaddr := rfl
@[simp] theorem State.setJedec_xnpay (i : Nat) (b : Byte) : (s.setJedec i b).xnpay = s.xnpay := rfl
@[simp] theorem State.setJedec_xnresp (i : Nat) (b : Byte) : (s.setJedec i b).xnresp = s.xnresp := rfl
@[simp] theorem State.setJedec_xdst (i : Nat) (b : Byte) : (s.setJedec i b).xdst = s.xdst := rfl
@[simp] theorem State.setJedec_xret (i : Nat) (b : Byte) : (s.setJedec i b).xret = s.xret := rfl
@[simp] theorem State.setJedec_csActive (i : Nat) (b : Byte) : (s.setJedec i b).csActive = s.csActive := rfl
@[simp] theorem State.setJedec_rst (i : Nat) (b : Byte) : (s.setJedec i b).rst = s.rst := rfl
@[simp] theorem State.setJedec_txReady (i : Nat) (b : Byte) : (s.setJedec i b).txReady = s.txReady := rfl
@[simp] theorem State.setJedec_rxq (i : Nat) (b : Byte) : (s.setJedec i b).rxq = s.rxq := rfl
@[simp] theorem State.setJedec_inputs (i : Nat) (b : Byte) : (s.setJedec i b).inputs = s.inputs := rfl
@[simp] theorem State.setJedec_chip (i : Nat) (b : Byte) : (s.setJedec i b).chip = s.chip := rfl
@[simp] theorem State.setJedec_hist (i : Nat) (b : Byte) : (s.setJedec i b).hist = s.hist := rfl

@[simp] theorem State.setCap_phase (v : Word) : (s.setCap v).phase = s.phase := rfl
@[simp] theorem State.setCap_addr (v : Word) : (s.setCap v).addr = s.addr := rfl
@[simp] theorem State.setCap_rem (v : Word) : (s.setCap v).rem = s.rem := rfl
@[simp] theorem State.setCap_chunk (v : Word) : (s.setCap v).chunk = s.chunk := rfl
@[simp] theorem State.setCap_buf (v : Word) : (s.setCap v).buf = s.buf := rfl
@[simp] theorem State.setCap_jedec (v : Word) : (s.setCap v).jedec = s.jedec := rfl
@[simp] theorem State.setCap_cap (v : Word) : (s.setCap v).cap = v := rfl
@[simp] theorem State.setCap_sr (v : Word) : (s.setCap v).sr = s.sr := rfl
@[simp] theorem State.setCap_xop (v : Word) : (s.setCap v).xop = s.xop := rfl
@[simp] theorem State.setCap_xhasAddr (v : Word) : (s.setCap v).xhasAddr = s.xhasAddr := rfl
@[simp] theorem State.setCap_xaddr (v : Word) : (s.setCap v).xaddr = s.xaddr := rfl
@[simp] theorem State.setCap_xnpay (v : Word) : (s.setCap v).xnpay = s.xnpay := rfl
@[simp] theorem State.setCap_xnresp (v : Word) : (s.setCap v).xnresp = s.xnresp := rfl
@[simp] theorem State.setCap_xdst (v : Word) : (s.setCap v).xdst = s.xdst := rfl
@[simp] theorem State.setCap_xret (v : Word) : (s.setCap v).xret = s.xret := rfl
@[simp] theorem State.setCap_csActive (v : Word) : (s.setCap v).csActive = s.csActive := rfl
@[simp] theorem State.setCap_rst (v : Word) : (s.setCap v).rst = s.rst := rfl
@[simp] theorem State.setCap_txReady (v : Word) : (s.setCap v).txReady = s.txReady := rfl
@[simp] theorem State.setCap_rxq (v : Word) : (s.setCap v).rxq = s.rxq := rfl
@[simp] theorem State.setCap_inputs (v : Word) : (s.setCap v).inputs = s.inputs := rfl
@[simp] theorem State.setCap_chip (v : Word) : (s.setCap v).chip = s.chip := rfl
@[simp] theorem State.setCap_hist (v : Word) : (s.setCap v).hist = s.hist := rfl

@[simp] theorem State.setSr_phase (b : Byte) : (s.setSr b).phase = s.phase := rfl
@[simp] theorem State.setSr_addr (b : Byte) : (s.setSr b).addr = s.addr := rfl
@[simp] theorem State.setSr_rem (b : Byte) : (s.setSr b).rem = s.rem := rfl
@[simp] theorem State.setSr_chunk (b : Byte) : (s.setSr b).chunk = s.chunk := rfl
@[simp] theorem State.setSr_buf (b : Byte) : (s.setSr b).buf = s.buf := rfl
@[simp] theorem State.setSr_jedec (b : Byte) : (s.setSr b).jedec = s.jedec := rfl
@[simp] theorem State.setSr_cap (b : Byte) : (s.setSr b).cap = s.cap := rfl
@[simp] theorem State.setSr_sr (b : Byte) : (s.setSr b).sr = b := rfl
@[simp] theorem State.setSr_xop (b : Byte) : (s.setSr b).xop = s.xop := rfl
@[simp] theorem State.setSr_xhasAddr (b : Byte) : (s.setSr b).xhasAddr = s.xhasAddr := rfl
@[simp] theorem State.setSr_xaddr (b : Byte) : (s.setSr b).xaddr = s.xaddr := rfl
@[simp] theorem State.setSr_xnpay (b : Byte) : (s.setSr b).xnpay = s.xnpay := rfl
@[simp] theorem State.setSr_xnresp (b : Byte) : (s.setSr b).xnresp = s.xnresp := rfl
@[simp] theorem State.setSr_xdst (b : Byte) : (s.setSr b).xdst = s.xdst := rfl
@[simp] theorem State.setSr_xret (b : Byte) : (s.setSr b).xret = s.xret := rfl
@[simp] theorem State.setSr_csActive (b : Byte) : (s.setSr b).csActive = s.csActive := rfl
@[simp] theorem State.setSr_rst (b : Byte) : (s.setSr b).rst = s.rst := rfl
@[simp] theorem State.setSr_txReady (b : Byte) : (s.setSr b).txReady = s.txReady := rfl
@[simp] theorem State.setSr_rxq (b : Byte) : (s.setSr b).rxq = s.rxq := rfl
@[simp] theorem State.setSr_inputs (b : Byte) : (s.setSr b).inputs = s.inputs := rfl
@[simp] theorem State.setSr_chip (b : Byte) : (s.setSr b).chip = s.chip := rfl
@[simp] theorem State.setSr_hist (b : Byte) : (s.setSr b).hist = s.hist := rfl

@[simp] theorem State.setCs_phase (v : Bool) : (s.setCs v).phase = s.phase := rfl
@[simp] theorem State.setCs_addr (v : Bool) : (s.setCs v).addr = s.addr := rfl
@[simp] theorem State.setCs_rem (v : Bool) : (s.setCs v).rem = s.rem := rfl
@[simp] theorem State.setCs_chunk (v : Bool) : (s.setCs v).chunk = s.chunk := rfl
@[simp] theorem State.setCs_buf (v : Bool) : (s.setCs v).buf = s.buf := rfl
@[simp] theorem State.setCs_jedec (v : Bool) : (s.setCs v).jedec = s.jedec := rfl
@[simp] theorem State.setCs_cap (v : Bool) : (s.setCs v).cap = s.cap := rfl
@[simp] theorem State.setCs_sr (v : Bool) : (s.setCs v).sr = s.sr := rfl
@[simp] theorem State.setCs_xop (v : Bool) : (s.setCs v).xop = s.xop := rfl
@[simp] theorem State.setCs_xhasAddr (v : Bool) : (s.setCs v).xhasAddr = s.xhasAddr := rfl
@[simp] theorem State.setCs_xaddr (v : Bool) : (s.setCs v).xaddr = s.xaddr := rfl
@[simp] theorem State.setCs_xnpay (v : Bool) : (s.setCs v).xnpay = s.xnpay := rfl
@[simp] theorem State.setCs_xnresp (v : Bool) : (s.setCs v).xnresp = s.xnresp := rfl
@[simp] theorem State.setCs_xdst (v : Bool) : (s.setCs v).xdst = s.xdst := rfl
@[simp] theorem State.setCs_xret (v : Bool) : (s.setCs v).xret = s.xret := rfl
@[simp] theorem State.setCs_csActive (v : Bool) : (s.setCs v).csActive = v := rfl
@[simp] theorem State.setCs_rst (v : Bool) : (s.setCs v).rst = s.rst := rfl
@[simp] theorem State.setCs_txReady (v : Bool) : (s.setCs v).txReady = s.txReady := rfl
@[simp] theorem State.setCs_rxq (v : Bool) : (s.setCs v).rxq = s.rxq := rfl
@[simp] theorem State.setCs_inputs (v : Bool) : (s.setCs v).inputs = s.inputs := rfl
@[simp] theorem State.setCs_chip (v : Bool) : (s.setCs v).chip = s.chip := rfl
@[simp] theorem State.setCs_hist (v : Bool) : (s.setCs v).hist = s.hist := rfl

@[simp] theorem State.setChip_phase (c : Chip) : (s.setChip c).phase = s.phase := rfl
@[simp] theorem State.setChip_addr (c : Chip) : (s.setChip c).addr = s.addr := rfl
@[simp] theorem State.setChip_rem (c : Chip) : (s.setChip c).rem = s.rem := rfl
@[simp] theorem State.setChip_chunk (c : Chip) : (s.setChip c).chunk = s.chunk := rfl
@[simp] theorem State.setChip_buf (c : Chip) : (s.setChip c).buf = s.buf := rfl
@[simp] theorem State.setChip_jedec (c : Chip) : (s.setChip c).jedec = s.jedec := rfl
@[simp] theorem State.setChip_cap (c : Chip) : (s.setChip c).cap = s.cap := rfl
@[simp] theorem State.setChip_sr (c : Chip) : (s.setChip c).sr = s.sr := rfl
@[simp] theorem State.setChip_xop (c : Chip) : (s.setChip c).xop = s.xop := rfl
@[simp] theorem State.setChip_xhasAddr (c : Chip) : (s.setChip c).xhasAddr = s.xhasAddr := rfl
@[simp] theorem State.setChip_xaddr (c : Chip) : (s.setChip c).xaddr = s.xaddr := rfl
@[simp] theorem State.setChip_xnpay (c : Chip) : (s.setChip c).xnpay = s.xnpay := rfl
@[simp] theorem State.setChip_xnresp (c : Chip) : (s.setChip c).xnresp = s.xnresp := rfl
@[simp] theorem State.setChip_xdst (c : Chip) : (s.setChip c).xdst = s.xdst := rfl
@[simp] theorem State.setChip_xret (c : Chip) : (s.setChip c).xret = s.xret := rfl
@[simp] theorem State.setChip_csActive (c : Chip) : (s.setChip c).csActive = s.csActive := rfl
@[simp] theorem State.setChip_rst (c : Chip) : (s.setChip c).rst = s.rst := rfl
@[simp] theorem State.setChip_txReady (c : Chip) : (s.setChip c).txReady = s.txReady := rfl
@[simp] theorem State.setChip_rxq (c : Chip) : (s.setChip c).rxq = s.rxq := rfl
@[simp] theorem State.setChip_inputs (c : Chip) : (s.setChip c).inputs = s.inputs := rfl
@[simp] theorem State.setChip_chip (c : Chip) : (s.setChip c).chip = c := rfl
@[simp] theorem State.setChip_hist (c : Chip) : (s.setChip c).hist = s.hist := rfl

@[simp] theorem State.setDescriptor_phase (op : Byte) (ha : Bool) (a : BusAddr) (np nr : Count) (d : Dst) (r : Ret) : (s.setDescriptor op ha a np nr d r).phase = s.phase := rfl
@[simp] theorem State.setDescriptor_addr (op : Byte) (ha : Bool) (a : BusAddr) (np nr : Count) (d : Dst) (r : Ret) : (s.setDescriptor op ha a np nr d r).addr = s.addr := rfl
@[simp] theorem State.setDescriptor_rem (op : Byte) (ha : Bool) (a : BusAddr) (np nr : Count) (d : Dst) (r : Ret) : (s.setDescriptor op ha a np nr d r).rem = s.rem := rfl
@[simp] theorem State.setDescriptor_chunk (op : Byte) (ha : Bool) (a : BusAddr) (np nr : Count) (d : Dst) (r : Ret) : (s.setDescriptor op ha a np nr d r).chunk = s.chunk := rfl
@[simp] theorem State.setDescriptor_buf (op : Byte) (ha : Bool) (a : BusAddr) (np nr : Count) (d : Dst) (r : Ret) : (s.setDescriptor op ha a np nr d r).buf = s.buf := rfl
@[simp] theorem State.setDescriptor_jedec (op : Byte) (ha : Bool) (a : BusAddr) (np nr : Count) (d : Dst) (r : Ret) : (s.setDescriptor op ha a np nr d r).jedec = s.jedec := rfl
@[simp] theorem State.setDescriptor_cap (op : Byte) (ha : Bool) (a : BusAddr) (np nr : Count) (d : Dst) (r : Ret) : (s.setDescriptor op ha a np nr d r).cap = s.cap := rfl
@[simp] theorem State.setDescriptor_sr (op : Byte) (ha : Bool) (a : BusAddr) (np nr : Count) (d : Dst) (r : Ret) : (s.setDescriptor op ha a np nr d r).sr = s.sr := rfl
@[simp] theorem State.setDescriptor_xop (op : Byte) (ha : Bool) (a : BusAddr) (np nr : Count) (d : Dst) (r : Ret) : (s.setDescriptor op ha a np nr d r).xop = op := rfl
@[simp] theorem State.setDescriptor_xhasAddr (op : Byte) (ha : Bool) (a : BusAddr) (np nr : Count) (d : Dst) (r : Ret) : (s.setDescriptor op ha a np nr d r).xhasAddr = ha := rfl
@[simp] theorem State.setDescriptor_xaddr (op : Byte) (ha : Bool) (a : BusAddr) (np nr : Count) (d : Dst) (r : Ret) : (s.setDescriptor op ha a np nr d r).xaddr = a := rfl
@[simp] theorem State.setDescriptor_xnpay (op : Byte) (ha : Bool) (a : BusAddr) (np nr : Count) (d : Dst) (r : Ret) : (s.setDescriptor op ha a np nr d r).xnpay = np := rfl
@[simp] theorem State.setDescriptor_xnresp (op : Byte) (ha : Bool) (a : BusAddr) (np nr : Count) (d : Dst) (r : Ret) : (s.setDescriptor op ha a np nr d r).xnresp = nr := rfl
@[simp] theorem State.setDescriptor_xdst (op : Byte) (ha : Bool) (a : BusAddr) (np nr : Count) (d : Dst) (r : Ret) : (s.setDescriptor op ha a np nr d r).xdst = d := rfl
@[simp] theorem State.setDescriptor_xret (op : Byte) (ha : Bool) (a : BusAddr) (np nr : Count) (d : Dst) (r : Ret) : (s.setDescriptor op ha a np nr d r).xret = r := rfl
@[simp] theorem State.setDescriptor_csActive (op : Byte) (ha : Bool) (a : BusAddr) (np nr : Count) (d : Dst) (r : Ret) : (s.setDescriptor op ha a np nr d r).csActive = s.csActive := rfl
@[simp] theorem State.setDescriptor_rst (op : Byte) (ha : Bool) (a : BusAddr) (np nr : Count) (d : Dst) (r : Ret) : (s.setDescriptor op ha a np nr d r).rst = s.rst := rfl
@[simp] theorem State.setDescriptor_txReady (op : Byte) (ha : Bool) (a : BusAddr) (np nr : Count) (d : Dst) (r : Ret) : (s.setDescriptor op ha a np nr d r).txReady = s.txReady := rfl
@[simp] theorem State.setDescriptor_rxq (op : Byte) (ha : Bool) (a : BusAddr) (np nr : Count) (d : Dst) (r : Ret) : (s.setDescriptor op ha a np nr d r).rxq = s.rxq := rfl
@[simp] theorem State.setDescriptor_inputs (op : Byte) (ha : Bool) (a : BusAddr) (np nr : Count) (d : Dst) (r : Ret) : (s.setDescriptor op ha a np nr d r).inputs = s.inputs := rfl
@[simp] theorem State.setDescriptor_chip (op : Byte) (ha : Bool) (a : BusAddr) (np nr : Count) (d : Dst) (r : Ret) : (s.setDescriptor op ha a np nr d r).chip = s.chip := rfl
@[simp] theorem State.setDescriptor_hist (op : Byte) (ha : Bool) (a : BusAddr) (np nr : Count) (d : Dst) (r : Ret) : (s.setDescriptor op ha a np nr d r).hist = s.hist := rfl

@[simp] theorem State.setPorts_phase (x : HostInput) (rest : List HostInput) : (s.setPorts x rest).phase = s.phase := rfl
@[simp] theorem State.setPorts_addr (x : HostInput) (rest : List HostInput) : (s.setPorts x rest).addr = s.addr := rfl
@[simp] theorem State.setPorts_rem (x : HostInput) (rest : List HostInput) : (s.setPorts x rest).rem = s.rem := rfl
@[simp] theorem State.setPorts_chunk (x : HostInput) (rest : List HostInput) : (s.setPorts x rest).chunk = s.chunk := rfl
@[simp] theorem State.setPorts_buf (x : HostInput) (rest : List HostInput) : (s.setPorts x rest).buf = s.buf := rfl
@[simp] theorem State.setPorts_jedec (x : HostInput) (rest : List HostInput) : (s.setPorts x rest).jedec = s.jedec := rfl
@[simp] theorem State.setPorts_cap (x : HostInput) (rest : List HostInput) : (s.setPorts x rest).cap = s.cap := rfl
@[simp] theorem State.setPorts_sr (x : HostInput) (rest : List HostInput) : (s.setPorts x rest).sr = s.sr := rfl
@[simp] theorem State.setPorts_xop (x : HostInput) (rest : List HostInput) : (s.setPorts x rest).xop = s.xop := rfl
@[simp] theorem State.setPorts_xhasAddr (x : HostInput) (rest : List HostInput) : (s.setPorts x rest).xhasAddr = s.xhasAddr := rfl
@[simp] theorem State.setPorts_xaddr (x : HostInput) (rest : List HostInput) : (s.setPorts x rest).xaddr = s.xaddr := rfl
@[simp] theorem State.setPorts_xnpay (x : HostInput) (rest : List HostInput) : (s.setPorts x rest).xnpay = s.xnpay := rfl
@[simp] theorem State.setPorts_xnresp (x : HostInput) (rest : List HostInput) : (s.setPorts x rest).xnresp = s.xnresp := rfl
@[simp] theorem State.setPorts_xdst (x : HostInput) (rest : List HostInput) : (s.setPorts x rest).xdst = s.xdst := rfl
@[simp] theorem State.setPorts_xret (x : HostInput) (rest : List HostInput) : (s.setPorts x rest).xret = s.xret := rfl
@[simp] theorem State.setPorts_csActive (x : HostInput) (rest : List HostInput) : (s.setPorts x rest).csActive = s.csActive := rfl
@[simp] theorem State.setPorts_rst (x : HostInput) (rest : List HostInput) : (s.setPorts x rest).rst = x.rst := rfl
@[simp] theorem State.setPorts_txReady (x : HostInput) (rest : List HostInput) : (s.setPorts x rest).txReady = x.txReady := rfl
@[simp] theorem State.setPorts_rxq (x : HostInput) (rest : List HostInput) : (s.setPorts x rest).rxq = s.rxq := rfl
@[simp] theorem State.setPorts_inputs (x : HostInput) (rest : List HostInput) : (s.setPorts x rest).inputs = rest := rfl
@[simp] theorem State.setPorts_chip (x : HostInput) (rest : List HostInput) : (s.setPorts x rest).chip = s.chip := rfl
@[simp] theorem State.setPorts_hist (x : HostInput) (rest : List HostInput) : (s.setPorts x rest).hist = s.hist := rfl

end Sys2Proof.Machine
end

