-- ==== Sys2Proof/Laws/Frames.lean ====
section
/-! SUPPORT. What each shared operation leaves alone: one lemma per operation and untouched field, so that a frame is read off by
`simp` and no proof unfolds an operation. -/

namespace Sys2Proof.Machine

variable (s : State)

/-! ### Event primitives -/

@[simp] theorem State.wait_phase (w : WaitKind) : (s.wait w).phase = s.phase := rfl
@[simp] theorem State.wait_addr (w : WaitKind) : (s.wait w).addr = s.addr := rfl
@[simp] theorem State.wait_rem (w : WaitKind) : (s.wait w).rem = s.rem := rfl
@[simp] theorem State.wait_chunk (w : WaitKind) : (s.wait w).chunk = s.chunk := rfl
@[simp] theorem State.wait_buf (w : WaitKind) : (s.wait w).buf = s.buf := rfl
@[simp] theorem State.wait_jedec (w : WaitKind) : (s.wait w).jedec = s.jedec := rfl
@[simp] theorem State.wait_cap (w : WaitKind) : (s.wait w).cap = s.cap := rfl
@[simp] theorem State.wait_sr (w : WaitKind) : (s.wait w).sr = s.sr := rfl
@[simp] theorem State.wait_xop (w : WaitKind) : (s.wait w).xop = s.xop := rfl
@[simp] theorem State.wait_xhasAddr (w : WaitKind) : (s.wait w).xhasAddr = s.xhasAddr := rfl
@[simp] theorem State.wait_xaddr (w : WaitKind) : (s.wait w).xaddr = s.xaddr := rfl
@[simp] theorem State.wait_xnpay (w : WaitKind) : (s.wait w).xnpay = s.xnpay := rfl
@[simp] theorem State.wait_xnresp (w : WaitKind) : (s.wait w).xnresp = s.xnresp := rfl
@[simp] theorem State.wait_xdst (w : WaitKind) : (s.wait w).xdst = s.xdst := rfl
@[simp] theorem State.wait_xret (w : WaitKind) : (s.wait w).xret = s.xret := rfl
@[simp] theorem State.wait_csActive (w : WaitKind) : (s.wait w).csActive = s.csActive := rfl
@[simp] theorem State.wait_rst (w : WaitKind) : (s.wait w).rst = s.rst := rfl
@[simp] theorem State.wait_txReady (w : WaitKind) : (s.wait w).txReady = s.txReady := rfl
@[simp] theorem State.wait_rxq (w : WaitKind) : (s.wait w).rxq = s.rxq := rfl
@[simp] theorem State.wait_inputs (w : WaitKind) : (s.wait w).inputs = s.inputs := rfl
@[simp] theorem State.wait_chip (w : WaitKind) : (s.wait w).chip = s.chip := rfl

@[simp] theorem State.csAssert_phase : (s.csAssert).phase = s.phase := rfl
@[simp] theorem State.csAssert_addr : (s.csAssert).addr = s.addr := rfl
@[simp] theorem State.csAssert_rem : (s.csAssert).rem = s.rem := rfl
@[simp] theorem State.csAssert_chunk : (s.csAssert).chunk = s.chunk := rfl
@[simp] theorem State.csAssert_buf : (s.csAssert).buf = s.buf := rfl
@[simp] theorem State.csAssert_jedec : (s.csAssert).jedec = s.jedec := rfl
@[simp] theorem State.csAssert_cap : (s.csAssert).cap = s.cap := rfl
@[simp] theorem State.csAssert_sr : (s.csAssert).sr = s.sr := rfl
@[simp] theorem State.csAssert_xop : (s.csAssert).xop = s.xop := rfl
@[simp] theorem State.csAssert_xhasAddr : (s.csAssert).xhasAddr = s.xhasAddr := rfl
@[simp] theorem State.csAssert_xaddr : (s.csAssert).xaddr = s.xaddr := rfl
@[simp] theorem State.csAssert_xnpay : (s.csAssert).xnpay = s.xnpay := rfl
@[simp] theorem State.csAssert_xnresp : (s.csAssert).xnresp = s.xnresp := rfl
@[simp] theorem State.csAssert_xdst : (s.csAssert).xdst = s.xdst := rfl
@[simp] theorem State.csAssert_xret : (s.csAssert).xret = s.xret := rfl
@[simp] theorem State.csAssert_rst : (s.csAssert).rst = s.rst := rfl
@[simp] theorem State.csAssert_txReady : (s.csAssert).txReady = s.txReady := rfl
@[simp] theorem State.csAssert_rxq : (s.csAssert).rxq = s.rxq := rfl
@[simp] theorem State.csAssert_inputs : (s.csAssert).inputs = s.inputs := rfl

@[simp] theorem State.csDeassert_phase : (s.csDeassert).phase = s.phase := rfl
@[simp] theorem State.csDeassert_addr : (s.csDeassert).addr = s.addr := rfl
@[simp] theorem State.csDeassert_rem : (s.csDeassert).rem = s.rem := rfl
@[simp] theorem State.csDeassert_chunk : (s.csDeassert).chunk = s.chunk := rfl
@[simp] theorem State.csDeassert_buf : (s.csDeassert).buf = s.buf := rfl
@[simp] theorem State.csDeassert_jedec : (s.csDeassert).jedec = s.jedec := rfl
@[simp] theorem State.csDeassert_cap : (s.csDeassert).cap = s.cap := rfl
@[simp] theorem State.csDeassert_sr : (s.csDeassert).sr = s.sr := rfl
@[simp] theorem State.csDeassert_xop : (s.csDeassert).xop = s.xop := rfl
@[simp] theorem State.csDeassert_xhasAddr : (s.csDeassert).xhasAddr = s.xhasAddr := rfl
@[simp] theorem State.csDeassert_xaddr : (s.csDeassert).xaddr = s.xaddr := rfl
@[simp] theorem State.csDeassert_xnpay : (s.csDeassert).xnpay = s.xnpay := rfl
@[simp] theorem State.csDeassert_xnresp : (s.csDeassert).xnresp = s.xnresp := rfl
@[simp] theorem State.csDeassert_xdst : (s.csDeassert).xdst = s.xdst := rfl
@[simp] theorem State.csDeassert_xret : (s.csDeassert).xret = s.xret := rfl
@[simp] theorem State.csDeassert_rst : (s.csDeassert).rst = s.rst := rfl
@[simp] theorem State.csDeassert_txReady : (s.csDeassert).txReady = s.txReady := rfl
@[simp] theorem State.csDeassert_rxq : (s.csDeassert).rxq = s.rxq := rfl
@[simp] theorem State.csDeassert_inputs : (s.csDeassert).inputs = s.inputs := rfl

@[simp] theorem State.xfer_phase (o : Byte) : (s.xfer o).phase = s.phase := rfl
@[simp] theorem State.xfer_addr (o : Byte) : (s.xfer o).addr = s.addr := rfl
@[simp] theorem State.xfer_rem (o : Byte) : (s.xfer o).rem = s.rem := rfl
@[simp] theorem State.xfer_chunk (o : Byte) : (s.xfer o).chunk = s.chunk := rfl
@[simp] theorem State.xfer_buf (o : Byte) : (s.xfer o).buf = s.buf := rfl
@[simp] theorem State.xfer_jedec (o : Byte) : (s.xfer o).jedec = s.jedec := rfl
@[simp] theorem State.xfer_cap (o : Byte) : (s.xfer o).cap = s.cap := rfl
@[simp] theorem State.xfer_sr (o : Byte) : (s.xfer o).sr = s.sr := rfl
@[simp] theorem State.xfer_xop (o : Byte) : (s.xfer o).xop = s.xop := rfl
@[simp] theorem State.xfer_xhasAddr (o : Byte) : (s.xfer o).xhasAddr = s.xhasAddr := rfl
@[simp] theorem State.xfer_xaddr (o : Byte) : (s.xfer o).xaddr = s.xaddr := rfl
@[simp] theorem State.xfer_xnpay (o : Byte) : (s.xfer o).xnpay = s.xnpay := rfl
@[simp] theorem State.xfer_xnresp (o : Byte) : (s.xfer o).xnresp = s.xnresp := rfl
@[simp] theorem State.xfer_xdst (o : Byte) : (s.xfer o).xdst = s.xdst := rfl
@[simp] theorem State.xfer_xret (o : Byte) : (s.xfer o).xret = s.xret := rfl
@[simp] theorem State.xfer_csActive (o : Byte) : (s.xfer o).csActive = s.csActive := rfl
@[simp] theorem State.xfer_rst (o : Byte) : (s.xfer o).rst = s.rst := rfl
@[simp] theorem State.xfer_txReady (o : Byte) : (s.xfer o).txReady = s.txReady := rfl
@[simp] theorem State.xfer_rxq (o : Byte) : (s.xfer o).rxq = s.rxq := rfl
@[simp] theorem State.xfer_inputs (o : Byte) : (s.xfer o).inputs = s.inputs := rfl

/-! ### Setup -/

@[simp] theorem State.setup_addr (op : Byte) (a : Option BusAddr) (p r : Count) (d : Option Dst) (t : Ret) : (s.setup op a p r d t).addr = s.addr := rfl
@[simp] theorem State.setup_rem (op : Byte) (a : Option BusAddr) (p r : Count) (d : Option Dst) (t : Ret) : (s.setup op a p r d t).rem = s.rem := rfl
@[simp] theorem State.setup_chunk (op : Byte) (a : Option BusAddr) (p r : Count) (d : Option Dst) (t : Ret) : (s.setup op a p r d t).chunk = s.chunk := rfl
@[simp] theorem State.setup_buf (op : Byte) (a : Option BusAddr) (p r : Count) (d : Option Dst) (t : Ret) : (s.setup op a p r d t).buf = s.buf := rfl
@[simp] theorem State.setup_jedec (op : Byte) (a : Option BusAddr) (p r : Count) (d : Option Dst) (t : Ret) : (s.setup op a p r d t).jedec = s.jedec := rfl
@[simp] theorem State.setup_cap (op : Byte) (a : Option BusAddr) (p r : Count) (d : Option Dst) (t : Ret) : (s.setup op a p r d t).cap = s.cap := rfl
@[simp] theorem State.setup_sr (op : Byte) (a : Option BusAddr) (p r : Count) (d : Option Dst) (t : Ret) : (s.setup op a p r d t).sr = s.sr := rfl
@[simp] theorem State.setup_csActive (op : Byte) (a : Option BusAddr) (p r : Count) (d : Option Dst) (t : Ret) : (s.setup op a p r d t).csActive = s.csActive := rfl
@[simp] theorem State.setup_rst (op : Byte) (a : Option BusAddr) (p r : Count) (d : Option Dst) (t : Ret) : (s.setup op a p r d t).rst = s.rst := rfl
@[simp] theorem State.setup_txReady (op : Byte) (a : Option BusAddr) (p r : Count) (d : Option Dst) (t : Ret) : (s.setup op a p r d t).txReady = s.txReady := rfl
@[simp] theorem State.setup_rxq (op : Byte) (a : Option BusAddr) (p r : Count) (d : Option Dst) (t : Ret) : (s.setup op a p r d t).rxq = s.rxq := rfl
@[simp] theorem State.setup_inputs (op : Byte) (a : Option BusAddr) (p r : Count) (d : Option Dst) (t : Ret) : (s.setup op a p r d t).inputs = s.inputs := rfl
@[simp] theorem State.setup_chip (op : Byte) (a : Option BusAddr) (p r : Count) (d : Option Dst) (t : Ret) : (s.setup op a p r d t).chip = s.chip := rfl
@[simp] theorem State.setup_hist (op : Byte) (a : Option BusAddr) (p r : Count) (d : Option Dst) (t : Ret) : (s.setup op a p r d t).hist = s.hist := rfl

@[simp] theorem State.setupRdid_addr : (s.setupRdid).addr = s.addr := rfl
@[simp] theorem State.setupRdid_rem : (s.setupRdid).rem = s.rem := rfl
@[simp] theorem State.setupRdid_chunk : (s.setupRdid).chunk = s.chunk := rfl
@[simp] theorem State.setupRdid_buf : (s.setupRdid).buf = s.buf := rfl
@[simp] theorem State.setupRdid_jedec : (s.setupRdid).jedec = s.jedec := rfl
@[simp] theorem State.setupRdid_cap : (s.setupRdid).cap = s.cap := rfl
@[simp] theorem State.setupRdid_sr : (s.setupRdid).sr = s.sr := rfl
@[simp] theorem State.setupRdid_csActive : (s.setupRdid).csActive = s.csActive := rfl
@[simp] theorem State.setupRdid_rst : (s.setupRdid).rst = s.rst := rfl
@[simp] theorem State.setupRdid_txReady : (s.setupRdid).txReady = s.txReady := rfl
@[simp] theorem State.setupRdid_rxq : (s.setupRdid).rxq = s.rxq := rfl
@[simp] theorem State.setupRdid_inputs : (s.setupRdid).inputs = s.inputs := rfl
@[simp] theorem State.setupRdid_chip : (s.setupRdid).chip = s.chip := rfl
@[simp] theorem State.setupRdid_hist : (s.setupRdid).hist = s.hist := rfl

@[simp] theorem State.setupRead_addr : (s.setupRead).addr = s.addr := rfl
@[simp] theorem State.setupRead_rem : (s.setupRead).rem = s.rem := rfl
@[simp] theorem State.setupRead_chunk : (s.setupRead).chunk = s.chunk := rfl
@[simp] theorem State.setupRead_buf : (s.setupRead).buf = s.buf := rfl
@[simp] theorem State.setupRead_jedec : (s.setupRead).jedec = s.jedec := rfl
@[simp] theorem State.setupRead_cap : (s.setupRead).cap = s.cap := rfl
@[simp] theorem State.setupRead_sr : (s.setupRead).sr = s.sr := rfl
@[simp] theorem State.setupRead_csActive : (s.setupRead).csActive = s.csActive := rfl
@[simp] theorem State.setupRead_rst : (s.setupRead).rst = s.rst := rfl
@[simp] theorem State.setupRead_txReady : (s.setupRead).txReady = s.txReady := rfl
@[simp] theorem State.setupRead_rxq : (s.setupRead).rxq = s.rxq := rfl
@[simp] theorem State.setupRead_inputs : (s.setupRead).inputs = s.inputs := rfl
@[simp] theorem State.setupRead_chip : (s.setupRead).chip = s.chip := rfl
@[simp] theorem State.setupRead_hist : (s.setupRead).hist = s.hist := rfl

@[simp] theorem State.setupWren_addr (c : WriteClass) : (s.setupWren c).addr = s.addr := rfl
@[simp] theorem State.setupWren_rem (c : WriteClass) : (s.setupWren c).rem = s.rem := rfl
@[simp] theorem State.setupWren_chunk (c : WriteClass) : (s.setupWren c).chunk = s.chunk := rfl
@[simp] theorem State.setupWren_buf (c : WriteClass) : (s.setupWren c).buf = s.buf := rfl
@[simp] theorem State.setupWren_jedec (c : WriteClass) : (s.setupWren c).jedec = s.jedec := rfl
@[simp] theorem State.setupWren_cap (c : WriteClass) : (s.setupWren c).cap = s.cap := rfl
@[simp] theorem State.setupWren_sr (c : WriteClass) : (s.setupWren c).sr = s.sr := rfl
@[simp] theorem State.setupWren_csActive (c : WriteClass) : (s.setupWren c).csActive = s.csActive := rfl
@[simp] theorem State.setupWren_rst (c : WriteClass) : (s.setupWren c).rst = s.rst := rfl
@[simp] theorem State.setupWren_txReady (c : WriteClass) : (s.setupWren c).txReady = s.txReady := rfl
@[simp] theorem State.setupWren_rxq (c : WriteClass) : (s.setupWren c).rxq = s.rxq := rfl
@[simp] theorem State.setupWren_inputs (c : WriteClass) : (s.setupWren c).inputs = s.inputs := rfl
@[simp] theorem State.setupWren_chip (c : WriteClass) : (s.setupWren c).chip = s.chip := rfl
@[simp] theorem State.setupWren_hist (c : WriteClass) : (s.setupWren c).hist = s.hist := rfl

@[simp] theorem State.setupPp_addr : (s.setupPp).addr = s.addr := rfl
@[simp] theorem State.setupPp_rem : (s.setupPp).rem = s.rem := rfl
@[simp] theorem State.setupPp_chunk : (s.setupPp).chunk = s.chunk := rfl
@[simp] theorem State.setupPp_buf : (s.setupPp).buf = s.buf := rfl
@[simp] theorem State.setupPp_jedec : (s.setupPp).jedec = s.jedec := rfl
@[simp] theorem State.setupPp_cap : (s.setupPp).cap = s.cap := rfl
@[simp] theorem State.setupPp_sr : (s.setupPp).sr = s.sr := rfl
@[simp] theorem State.setupPp_csActive : (s.setupPp).csActive = s.csActive := rfl
@[simp] theorem State.setupPp_rst : (s.setupPp).rst = s.rst := rfl
@[simp] theorem State.setupPp_txReady : (s.setupPp).txReady = s.txReady := rfl
@[simp] theorem State.setupPp_rxq : (s.setupPp).rxq = s.rxq := rfl
@[simp] theorem State.setupPp_inputs : (s.setupPp).inputs = s.inputs := rfl
@[simp] theorem State.setupPp_chip : (s.setupPp).chip = s.chip := rfl
@[simp] theorem State.setupPp_hist : (s.setupPp).hist = s.hist := rfl

@[simp] theorem State.setupCe_addr : (s.setupCe).addr = s.addr := rfl
@[simp] theorem State.setupCe_rem : (s.setupCe).rem = s.rem := rfl
@[simp] theorem State.setupCe_chunk : (s.setupCe).chunk = s.chunk := rfl
@[simp] theorem State.setupCe_buf : (s.setupCe).buf = s.buf := rfl
@[simp] theorem State.setupCe_jedec : (s.setupCe).jedec = s.jedec := rfl
@[simp] theorem State.setupCe_cap : (s.setupCe).cap = s.cap := rfl
@[simp] theorem State.setupCe_sr : (s.setupCe).sr = s.sr := rfl
@[simp] theorem State.setupCe_csActive : (s.setupCe).csActive = s.csActive := rfl
@[simp] theorem State.setupCe_rst : (s.setupCe).rst = s.rst := rfl
@[simp] theorem State.setupCe_txReady : (s.setupCe).txReady = s.txReady := rfl
@[simp] theorem State.setupCe_rxq : (s.setupCe).rxq = s.rxq := rfl
@[simp] theorem State.setupCe_inputs : (s.setupCe).inputs = s.inputs := rfl
@[simp] theorem State.setupCe_chip : (s.setupCe).chip = s.chip := rfl
@[simp] theorem State.setupCe_hist : (s.setupCe).hist = s.hist := rfl

@[simp] theorem State.setupRdsr_addr (c : WriteClass) : (s.setupRdsr c).addr = s.addr := rfl
@[simp] theorem State.setupRdsr_rem (c : WriteClass) : (s.setupRdsr c).rem = s.rem := rfl
@[simp] theorem State.setupRdsr_chunk (c : WriteClass) : (s.setupRdsr c).chunk = s.chunk := rfl
@[simp] theorem State.setupRdsr_buf (c : WriteClass) : (s.setupRdsr c).buf = s.buf := rfl
@[simp] theorem State.setupRdsr_jedec (c : WriteClass) : (s.setupRdsr c).jedec = s.jedec := rfl
@[simp] theorem State.setupRdsr_cap (c : WriteClass) : (s.setupRdsr c).cap = s.cap := rfl
@[simp] theorem State.setupRdsr_sr (c : WriteClass) : (s.setupRdsr c).sr = s.sr := rfl
@[simp] theorem State.setupRdsr_csActive (c : WriteClass) : (s.setupRdsr c).csActive = s.csActive := rfl
@[simp] theorem State.setupRdsr_rst (c : WriteClass) : (s.setupRdsr c).rst = s.rst := rfl
@[simp] theorem State.setupRdsr_txReady (c : WriteClass) : (s.setupRdsr c).txReady = s.txReady := rfl
@[simp] theorem State.setupRdsr_rxq (c : WriteClass) : (s.setupRdsr c).rxq = s.rxq := rfl
@[simp] theorem State.setupRdsr_inputs (c : WriteClass) : (s.setupRdsr c).inputs = s.inputs := rfl
@[simp] theorem State.setupRdsr_chip (c : WriteClass) : (s.setupRdsr c).chip = s.chip := rfl
@[simp] theorem State.setupRdsr_hist (c : WriteClass) : (s.setupRdsr c).hist = s.hist := rfl

/-! ### Loop, busy-wait, continuation -/

@[simp] theorem State.loopHead_addr (c : Transfer) : (s.loopHead c).addr = s.addr := by
  unfold State.loopHead; split <;> cases c <;> rfl
@[simp] theorem State.loopHead_rem (c : Transfer) : (s.loopHead c).rem = s.rem := by
  unfold State.loopHead; split <;> cases c <;> rfl
@[simp] theorem State.loopHead_buf (c : Transfer) : (s.loopHead c).buf = s.buf := by
  unfold State.loopHead; split <;> cases c <;> rfl
@[simp] theorem State.loopHead_jedec (c : Transfer) : (s.loopHead c).jedec = s.jedec := by
  unfold State.loopHead; split <;> cases c <;> rfl
@[simp] theorem State.loopHead_cap (c : Transfer) : (s.loopHead c).cap = s.cap := by
  unfold State.loopHead; split <;> cases c <;> rfl
@[simp] theorem State.loopHead_sr (c : Transfer) : (s.loopHead c).sr = s.sr := by
  unfold State.loopHead; split <;> cases c <;> rfl
@[simp] theorem State.loopHead_csActive (c : Transfer) : (s.loopHead c).csActive = s.csActive := by
  unfold State.loopHead; split <;> cases c <;> rfl
@[simp] theorem State.loopHead_rst (c : Transfer) : (s.loopHead c).rst = s.rst := by
  unfold State.loopHead; split <;> cases c <;> rfl
@[simp] theorem State.loopHead_txReady (c : Transfer) : (s.loopHead c).txReady = s.txReady := by
  unfold State.loopHead; split <;> cases c <;> rfl
@[simp] theorem State.loopHead_rxq (c : Transfer) : (s.loopHead c).rxq = s.rxq := by
  unfold State.loopHead; split <;> cases c <;> rfl
@[simp] theorem State.loopHead_inputs (c : Transfer) : (s.loopHead c).inputs = s.inputs := by
  unfold State.loopHead; split <;> cases c <;> rfl
@[simp] theorem State.loopHead_chip (c : Transfer) : (s.loopHead c).chip = s.chip := by
  unfold State.loopHead; split <;> cases c <;> rfl
@[simp] theorem State.loopHead_hist (c : Transfer) : (s.loopHead c).hist = s.hist := by
  unfold State.loopHead; split <;> cases c <;> rfl

@[simp] theorem State.advance_buf (c : Transfer) : (s.advance c).buf = s.buf := by
  simp [State.advance]
@[simp] theorem State.advance_jedec (c : Transfer) : (s.advance c).jedec = s.jedec := by
  simp [State.advance]
@[simp] theorem State.advance_cap (c : Transfer) : (s.advance c).cap = s.cap := by
  simp [State.advance]
@[simp] theorem State.advance_sr (c : Transfer) : (s.advance c).sr = s.sr := by
  simp [State.advance]
@[simp] theorem State.advance_csActive (c : Transfer) : (s.advance c).csActive = s.csActive := by
  simp [State.advance]
@[simp] theorem State.advance_rst (c : Transfer) : (s.advance c).rst = s.rst := by
  simp [State.advance]
@[simp] theorem State.advance_txReady (c : Transfer) : (s.advance c).txReady = s.txReady := by
  simp [State.advance]
@[simp] theorem State.advance_rxq (c : Transfer) : (s.advance c).rxq = s.rxq := by
  simp [State.advance]
@[simp] theorem State.advance_inputs (c : Transfer) : (s.advance c).inputs = s.inputs := by
  simp [State.advance]
@[simp] theorem State.advance_chip (c : Transfer) : (s.advance c).chip = s.chip := by
  simp [State.advance]
@[simp] theorem State.advance_hist (c : Transfer) : (s.advance c).hist = s.hist := by
  simp [State.advance]

@[simp] theorem State.pollDone_buf (c : WriteClass) : (s.pollDone c).buf = s.buf := by
  unfold State.pollDone; split <;> cases c <;> simp
@[simp] theorem State.pollDone_jedec (c : WriteClass) : (s.pollDone c).jedec = s.jedec := by
  unfold State.pollDone; split <;> cases c <;> simp
@[simp] theorem State.pollDone_cap (c : WriteClass) : (s.pollDone c).cap = s.cap := by
  unfold State.pollDone; split <;> cases c <;> simp
@[simp] theorem State.pollDone_sr (c : WriteClass) : (s.pollDone c).sr = s.sr := by
  unfold State.pollDone; split <;> cases c <;> simp
@[simp] theorem State.pollDone_csActive (c : WriteClass) : (s.pollDone c).csActive = s.csActive := by
  unfold State.pollDone; split <;> cases c <;> simp
@[simp] theorem State.pollDone_rst (c : WriteClass) : (s.pollDone c).rst = s.rst := by
  unfold State.pollDone; split <;> cases c <;> simp
@[simp] theorem State.pollDone_txReady (c : WriteClass) : (s.pollDone c).txReady = s.txReady := by
  unfold State.pollDone; split <;> cases c <;> simp
@[simp] theorem State.pollDone_rxq (c : WriteClass) : (s.pollDone c).rxq = s.rxq := by
  unfold State.pollDone; split <;> cases c <;> simp
@[simp] theorem State.pollDone_inputs (c : WriteClass) : (s.pollDone c).inputs = s.inputs := by
  unfold State.pollDone; split <;> cases c <;> simp
@[simp] theorem State.pollDone_chip (c : WriteClass) : (s.pollDone c).chip = s.chip := by
  unfold State.pollDone; split <;> cases c <;> simp
@[simp] theorem State.pollDone_hist (c : WriteClass) : (s.pollDone c).hist = s.hist := by
  unfold State.pollDone; split <;> cases c <;> simp

@[simp] theorem State.continueAt_buf : (s.continueAt).buf = s.buf := by
  unfold State.continueAt; split <;> simp
@[simp] theorem State.continueAt_jedec : (s.continueAt).jedec = s.jedec := by
  unfold State.continueAt; split <;> simp
@[simp] theorem State.continueAt_sr : (s.continueAt).sr = s.sr := by
  unfold State.continueAt; split <;> simp
@[simp] theorem State.continueAt_csActive : (s.continueAt).csActive = s.csActive := by
  unfold State.continueAt; split <;> simp
@[simp] theorem State.continueAt_rst : (s.continueAt).rst = s.rst := by
  unfold State.continueAt; split <;> simp
@[simp] theorem State.continueAt_txReady : (s.continueAt).txReady = s.txReady := by
  unfold State.continueAt; split <;> simp
@[simp] theorem State.continueAt_rxq : (s.continueAt).rxq = s.rxq := by
  unfold State.continueAt; split <;> simp
@[simp] theorem State.continueAt_inputs : (s.continueAt).inputs = s.inputs := by
  unfold State.continueAt; split <;> simp
@[simp] theorem State.continueAt_chip : (s.continueAt).chip = s.chip := by
  unfold State.continueAt; split <;> simp
@[simp] theorem State.continueAt_hist : (s.continueAt).hist = s.hist := by
  unfold State.continueAt; split <;> simp

/-! ### Response bytes -/

@[simp] theorem State.capture_phase (i : Fin 256) (v : Byte) : (s.capture i v).phase = s.phase := by
  unfold State.capture; split <;> rfl
@[simp] theorem State.capture_addr (i : Fin 256) (v : Byte) : (s.capture i v).addr = s.addr := by
  unfold State.capture; split <;> rfl
@[simp] theorem State.capture_rem (i : Fin 256) (v : Byte) : (s.capture i v).rem = s.rem := by
  unfold State.capture; split <;> rfl
@[simp] theorem State.capture_chunk (i : Fin 256) (v : Byte) : (s.capture i v).chunk = s.chunk := by
  unfold State.capture; split <;> rfl
@[simp] theorem State.capture_cap (i : Fin 256) (v : Byte) : (s.capture i v).cap = s.cap := by
  unfold State.capture; split <;> rfl
@[simp] theorem State.capture_xop (i : Fin 256) (v : Byte) : (s.capture i v).xop = s.xop := by
  unfold State.capture; split <;> rfl
@[simp] theorem State.capture_xhasAddr (i : Fin 256) (v : Byte) : (s.capture i v).xhasAddr = s.xhasAddr := by
  unfold State.capture; split <;> rfl
@[simp] theorem State.capture_xaddr (i : Fin 256) (v : Byte) : (s.capture i v).xaddr = s.xaddr := by
  unfold State.capture; split <;> rfl
@[simp] theorem State.capture_xnpay (i : Fin 256) (v : Byte) : (s.capture i v).xnpay = s.xnpay := by
  unfold State.capture; split <;> rfl
@[simp] theorem State.capture_xnresp (i : Fin 256) (v : Byte) : (s.capture i v).xnresp = s.xnresp := by
  unfold State.capture; split <;> rfl
@[simp] theorem State.capture_xdst (i : Fin 256) (v : Byte) : (s.capture i v).xdst = s.xdst := by
  unfold State.capture; split <;> rfl
@[simp] theorem State.capture_xret (i : Fin 256) (v : Byte) : (s.capture i v).xret = s.xret := by
  unfold State.capture; split <;> rfl
@[simp] theorem State.capture_csActive (i : Fin 256) (v : Byte) : (s.capture i v).csActive = s.csActive := by
  unfold State.capture; split <;> rfl
@[simp] theorem State.capture_rst (i : Fin 256) (v : Byte) : (s.capture i v).rst = s.rst := by
  unfold State.capture; split <;> rfl
@[simp] theorem State.capture_txReady (i : Fin 256) (v : Byte) : (s.capture i v).txReady = s.txReady := by
  unfold State.capture; split <;> rfl
@[simp] theorem State.capture_rxq (i : Fin 256) (v : Byte) : (s.capture i v).rxq = s.rxq := by
  unfold State.capture; split <;> rfl
@[simp] theorem State.capture_inputs (i : Fin 256) (v : Byte) : (s.capture i v).inputs = s.inputs := by
  unfold State.capture; split <;> rfl
@[simp] theorem State.capture_chip (i : Fin 256) (v : Byte) : (s.capture i v).chip = s.chip := by
  unfold State.capture; split <;> rfl
@[simp] theorem State.capture_hist (i : Fin 256) (v : Byte) : (s.capture i v).hist = s.hist := by
  unfold State.capture; split <;> rfl

end Sys2Proof.Machine
end

