-- ==== Sys2Proof/Laws/Ops.lean ====
section
/-! SUPPORT. What each shared operation can do, said once: the equation of each in each of its cases, so that a proof about an
instruction cites these and unfolds nothing further. -/

namespace Sys2Proof.Machine

/-! ### Operands -/

theorem nextIndex_of_lt {n limit : Nat} {i : Fin n} (h : i.val + 1 < n) (hl : i.val + 1 < limit) :
    nextIndex i limit = some ⟨i.val + 1, h⟩ := by simp [nextIndex, h, hl]

theorem nextIndex_last {n limit : Nat} {i : Fin n} (h : limit ≤ i.val + 1) : nextIndex i limit = none := by
  simp [nextIndex, Nat.not_lt.mpr h]

theorem nextIndex_end {n limit : Nat} {i : Fin n} (h : n ≤ i.val + 1) : nextIndex i limit = none := by
  simp [nextIndex, Nat.not_lt.mpr h]

/-- The next index is the next number, inside the limit. -/
theorem nextIndex_some {n limit : Nat} {i j : Fin n} (h : nextIndex i limit = some j) :
    j.val = i.val + 1 ∧ i.val + 1 < limit := by
  unfold nextIndex at h
  split at h
  · split at h
    · rename_i hl
      simp only [Option.some.injEq] at h
      exact ⟨by rw [← h], hl⟩
    · cases h
  · cases h

/-- No next index: the limit or the last index is reached. -/
theorem nextIndex_none {n limit : Nat} {i : Fin n} (h : nextIndex i limit = none) : limit ≤ i.val + 1 ∨ n ≤ i.val + 1 := by
  unfold nextIndex at h
  split at h
  · split at h
    · cases h
    · omega
  · omega

theorem chunkOf_toNat (r : Word) : (chunkOf r).toNat = min r.toNat 256 := by
  simp [chunkOf, Config.chunkMax]

theorem count_pos_iff (c : Count) : 0 < c.toNat ↔ c ≠ 0 := by
  rw [ne_eq, ← BitVec.toNat_inj]
  simp only [BitVec.ofNat_eq_ofNat, BitVec.toNat_ofNat]
  omega

/-! ### Event primitives -/

theorem State.rxByte_nil {s : State} {k : Byte → State → State} (h : s.rxq = []) : s.rxByte k = s := by
  simp [State.rxByte, h]

theorem State.rxByte_cons {s : State} {k : Byte → State → State} {b : Byte} {q : List Byte} (h : s.rxq = b :: q) :
    s.rxByte k = k b ((s.setRxq q).log (.rx b)) := by
  simp [State.rxByte, h]

theorem State.txByte_ready {s : State} {v : Byte} {k : State → State} (h : s.txReady = true) :
    s.txByte v k = k (s.log (.tx v)) := by
  simp [State.txByte, h]

theorem State.txByte_blocked {s : State} {v : Byte} {k : State → State} (h : s.txReady = false) : s.txByte v k = s := by
  simp [State.txByte, h]

theorem State.takeTag_nil {s : State} {i : Instr} {k : State → State} (h : s.rxq = []) : s.takeTag i k = .next s := by
  simp [State.takeTag, h]

theorem State.takeTag_match {s : State} {i : Instr} {k : State → State} {b : Byte} {q : List Byte} (h : s.rxq = b :: q)
    (hb : decodeTag b = i) : s.takeTag i k = .next (k ((s.setRxq q).log (.rx b))) := by
  simp [State.takeTag, h, hb]

/-- If taking a tag answers a next state, the queue was empty and nothing changed, or the tag was the instruction's. -/
theorem State.takeTag_next {s t : State} {i : Instr} {k : State → State} (h : s.takeTag i k = .next t) :
    (s.rxq = [] ∧ t = s) ∨ ∃ b q, s.rxq = b :: q ∧ decodeTag b = i ∧ t = k ((s.setRxq q).log (.rx b)) := by
  unfold State.takeTag at h
  split at h
  · rename_i hq; cases h; exact .inl ⟨hq, rfl⟩
  · rename_i b q hq
    split at h
    · rename_i hb; cases h; exact .inr ⟨b, q, hq, hb, rfl⟩
    · cases h

/-! ### The loop, the busy-wait, the continuations -/

theorem State.loopHead_done {s : State} (c : Transfer) (h : s.rem = 0) :
    s.loopHead c = s.goto (match c with | .r => .idle | .w => .ack2) := by
  cases c <;> simp [State.loopHead, h]

theorem State.loopHead_read {s : State} (h : s.rem ≠ 0) : s.loopHead .r = (s.setChunk (chunkOf s.rem)).setupRead := by
  simp only [State.loopHead, if_neg h]

theorem State.loopHead_write {s : State} (h : s.rem ≠ 0) :
    s.loopHead .w = (s.setChunk (chunkOf s.rem)).goto (.wIn 0) := by
  simp only [State.loopHead, if_neg h]

theorem State.pollDone_busy {s : State} (c : WriteClass) (h : s.busyFlag = true) : s.pollDone c = s.goto (.pollWait c) := by
  simp [State.pollDone, h]

theorem State.pollDone_write {s : State} (h : s.busyFlag = false) : s.pollDone .w = s.advance .w := by
  simp [State.pollDone, h]

theorem State.pollDone_erase {s : State} (h : s.busyFlag = false) : s.pollDone .e = s.goto .eAck := by
  simp [State.pollDone, h]

/-! ### Response bytes -/

theorem State.capture_buf_of {s : State} (h : s.xdst = .buf) (i : Fin 256) (v : Byte) : s.capture i v = s.setBuf i v := by
  simp only [State.capture, h]

theorem State.capture_jedec_of {s : State} (h : s.xdst = .jedec) (i : Fin 256) (v : Byte) :
    s.capture i v = s.setJedec i.val v := by simp only [State.capture, h]

theorem State.capture_sr_of {s : State} (h : s.xdst = .sr) (i : Fin 256) (v : Byte) : s.capture i v = s.setSr v := by
  simp only [State.capture, h]

/-- A byte captured leaves every other byte of `buf` alone. -/
theorem State.capture_buf_ne (s : State) {i j : Fin 256} (v : Byte) (h : i ≠ j) : (s.capture i v).buf[j.val] = s.buf[j.val] := by
  unfold State.capture
  split
  · exact Vector.getElem_set_ne i.isLt j.isLt (fun e => h (Fin.ext e))
  · rfl
  · rfl

/-! ### The bus instructions -/

/-- A bus instruction is the transaction of its opcode. -/
theorem exec_bus {i : Instr} (h : i.onTransport = false) (s : State) : exec i s = s.transact i := by
  cases i <;> first | rfl | simp [Instr.onTransport] at h

/-- Everything a bus instruction can do: it answers a next state only in a transaction phase with its opcode, and then
performs the event of that phase. -/
theorem State.transact_next {s t : State} {i : Instr} (h : s.transact i = .next t) :
    s.xop = opcodeOf i ∧
      ((s.phase = .xCsOn ∧ t = s.evCsOn) ∨ (s.phase = .xOp ∧ t = s.evOp) ∨ (∃ k, s.phase = .xAddr k ∧ t = s.evAddr k) ∨
        (∃ j, s.phase = .xPay j ∧ t = s.evPay j) ∨ (∃ j, s.phase = .xResp j ∧ t = s.evResp j) ∨
        (s.phase = .xCsOff ∧ t = s.evCsOff)) := by
  unfold State.transact at h
  split at h
  · rename_i ho
    refine ⟨ho, ?_⟩
    split at h <;> cases h <;> simp_all
  · cases h

/-- Everything Read can do. -/
theorem execRead_next {s t : State} (h : execRead s = .next t) :
    (s.phase = .idle ∧ s.takeTag .read (fun s => s.goto (.param .r 0)) = .next t) ∨
      (∃ k, s.phase = .param .r k ∧ t = s.evParam .r k) ∨ (s.phase = .ack1 .r ∧ t = s.evAck1 .r) ∨
      (∃ i, s.phase = .rOut i ∧ t = s.evROut i) := by
  unfold execRead at h
  split at h <;> first | exact .inl ⟨‹_›, h⟩ | (cases h <;> simp_all)

/-- Everything Write can do. -/
theorem execWrite_next {s t : State} (h : execWrite s = .next t) :
    (s.phase = .idle ∧ s.takeTag .write (fun s => s.goto (.param .w 0)) = .next t) ∨
      (∃ k, s.phase = .param .w k ∧ t = s.evParam .w k) ∨ (s.phase = .ack1 .w ∧ t = s.evAck1 .w) ∨
      (∃ i, s.phase = .wIn i ∧ t = s.evWIn i) ∨ (s.phase = .gap .w ∧ t = s.evGap .w) ∨
      (s.phase = .pollWait .w ∧ t = s.evPollWait .w) ∨ (s.phase = .ack2 ∧ t = s.evFinalAck) := by
  unfold execWrite at h
  split at h <;> first | exact .inl ⟨‹_›, h⟩ | (cases h <;> simp_all)

/-- Everything Erase can do. -/
theorem execErase_next {s t : State} (h : execErase s = .next t) :
    (s.phase = .idle ∧ s.takeTag .erase (fun s => s.setupWren .e) = .next t) ∨ (s.phase = .gap .e ∧ t = s.evGap .e) ∨
      (s.phase = .pollWait .e ∧ t = s.evPollWait .e) ∨ (s.phase = .eAck ∧ t = s.evFinalAck) := by
  unfold execErase at h
  split at h <;> first | exact .inl ⟨‹_›, h⟩ | (cases h <;> simp_all)

/-- Everything Detect can do. -/
theorem execDetect_next {s t : State} (h : execDetect s = .next t) :
    (s.phase = .idle ∧ s.takeTag .detect (fun s => s.setupRdid) = .next t) ∨ (∃ k, s.phase = .dOut k ∧ t = s.evDOut k) := by
  unfold execDetect at h
  split at h <;> first | exact .inl ⟨‹_›, h⟩ | (cases h <;> simp_all)

/-- Everything an unknown tag can do. -/
theorem execUnknown_next {s t : State} {b : Byte} (h : execUnknown b s = .next t) :
    s.phase = .idle ∧ s.takeTag (.unknown b) (fun s => s.goto .idle) = .next t := by
  unfold execUnknown at h
  split at h <;> first | exact ⟨‹_›, h⟩ | cases h

end Sys2Proof.Machine
end

