-- ==== Sys2Proof/Laws/Step.lean ====
section
/-! SUPPORT. What a step can do, said once: the host's input is delivered or overruns; then reset, or the one event of the phase.
Every invariant is a case analysis over `State.afterEvent`. -/

namespace Sys2Proof.Machine

/-! ### The host's input -/

theorem State.deliver_fits {s : State} {bs : List Byte} (h : s.rxq.length + bs.length ≤ Config.rxDepth) :
    s.deliver bs = some (s.setRxq (s.rxq ++ bs)) := by
  induction bs generalizing s with
  | nil => simp only [State.deliver, List.append_nil]; rfl
  | cons b bs ih =>
    simp only [List.length_cons] at h
    rw [State.deliver, if_pos (by omega), ih (by simp only [State.setRxq_rxq, List.length_append, List.length_singleton]; omega)]
    simp [State.setRxq]

theorem State.deliver_overruns {s : State} {bs : List Byte} (hb : bs ≠ [])
    (h : Config.rxDepth < s.rxq.length + bs.length) : s.deliver bs = none := by
  induction bs generalizing s with
  | nil => exact absurd rfl hb
  | cons b bs ih =>
    simp only [List.length_cons] at h
    rw [State.deliver]
    split
    · rename_i hd
      refine ih (fun e => ?_) (by simp only [State.setRxq_rxq, List.length_append, List.length_singleton]; omega)
      subst e
      simp only [List.length_nil] at h
      omega
    · rfl

/-- What a delivery that fits leaves. -/
theorem State.deliver_some {s u : State} {bs : List Byte} (h : s.deliver bs = some u) :
    u = s.setRxq (s.rxq ++ bs) ∧ (bs = [] ∨ s.rxq.length + bs.length ≤ Config.rxDepth) := by
  by_cases hf : s.rxq.length + bs.length ≤ Config.rxDepth
  · rw [State.deliver_fits hf] at h
    exact ⟨(Option.some.inj h).symm, .inr hf⟩
  · by_cases hb : bs = []
    · subst hb
      simp only [State.deliver, Option.some.injEq] at h
      subst h
      exact ⟨by simp [State.setRxq], .inl rfl⟩
    · rw [State.deliver_overruns hb (by omega)] at h
      cases h

/-- What the host's part of a step leaves: new ports, a shorter schedule and a longer queue. -/
theorem State.latch_some {s u : State} (h : s.latch = some u) :
    (s.inputs = [] ∧ u = s) ∨
      ∃ x rest, s.inputs = x :: rest ∧ u = (s.setPorts x rest).setRxq (s.rxq ++ x.arrive) ∧
        (x.arrive = [] ∨ s.rxq.length + x.arrive.length ≤ Config.rxDepth) := by
  unfold State.latch at h
  split at h
  · rename_i hi
    exact .inl ⟨hi, (Option.some.inj h).symm⟩
  · rename_i x rest hi
    obtain ⟨hu, hf⟩ := State.deliver_some h
    exact .inr ⟨x, rest, hi, hu, hf⟩

theorem State.latch_nil {s : State} (h : s.inputs = []) : s.latch = some s := by simp [State.latch, h]

/-! ### The event of the phase -/

/-- The state after a tag has been taken (R121, R124 to R128). -/
def State.dispatched (s : State) : Instr → State
  | .read => s.goto (.param .r 0)
  | .write => s.goto (.param .w 0)
  | .erase => s.setupWren .e
  | .detect => s.setupRdid
  | _ => s.goto .idle

/-- The state after the event the phase names: the state itself where that event is blocked. -/
def State.afterEvent (s : State) : State :=
  match s.phase with
  | .idle =>
    match s.rxq with
    | [] => s
    | b :: q => ((s.setRxq q).log (.rx b)).dispatched (decodeTag b)
  | .param c k => s.evParam c k
  | .ack1 c => s.evAck1 c
  | .rOut i => s.evROut i
  | .wIn i => s.evWIn i
  | .gap c => s.evGap c
  | .pollWait c => s.evPollWait c
  | .ack2 => s.evFinalAck
  | .eAck => s.evFinalAck
  | .dOut k => s.evDOut k
  | .xCsOn => s.evCsOn
  | .xOp => s.evOp
  | .xAddr k => s.evAddr k
  | .xPay i => s.evPay i
  | .xResp i => s.evResp i
  | .xCsOff => s.evCsOff

/-- The opcode decoder is right: what it reads is a bus instruction with that opcode. -/
theorem decodeBus_ok {b : Byte} {i : Instr} (h : decodeBus b = .ok i) : b = opcodeOf i ∧ i.onTransport = false := by
  unfold decodeBus at h
  split_ifs at h with h1 h2 h3 h4 h5 h6 <;> cases h <;> exact ⟨‹_›, rfl⟩

theorem decodeBus_opcodeOf {i : Instr} (h : i.onTransport = false) : decodeBus (opcodeOf i) = .ok i := by
  cases i <;> first | rfl | simp [Instr.onTransport] at h

/-- A tag never reads as a bus instruction. -/
theorem decodeTag_onTransport (b : Byte) : (decodeTag b).onTransport = true := by
  unfold decodeTag
  split_ifs <;> rfl

/-- The instruction fetched performs the event of the phase. -/
theorem exec_fetched {s : State} {i : Instr} (h : s.fetch = .instr i) : exec i s = .next s.afterEvent := by
  have bus : s.fetchBus = .instr i → exec i s = s.transact i ∧ s.xop = opcodeOf i := by
    intro hb
    unfold State.fetchBus at hb
    split at hb
    · rename_i j hj
      simp only [Fetched.instr.injEq] at hb
      subst hb
      exact ⟨exec_bus (decodeBus_ok hj).2 s, (decodeBus_ok hj).1⟩
    · cases hb
  cases hp : s.phase with
  | idle =>
    cases hq : s.rxq with
    | nil => simp [State.fetch, hp, hq] at h
    | cons b q =>
      simp only [State.fetch, hp, hq, Fetched.instr.injEq] at h
      subst h
      simp only [State.afterEvent, hp, hq]
      cases hd : decodeTag b with
      | read => simp only [exec, execRead, hp]; exact State.takeTag_match hq hd
      | write => simp only [exec, execWrite, hp]; exact State.takeTag_match hq hd
      | erase => simp only [exec, execErase, hp]; exact State.takeTag_match hq hd
      | detect => simp only [exec, execDetect, hp]; exact State.takeTag_match hq hd
      | unknown t => simp only [exec, execUnknown, hp]; exact State.takeTag_match hq hd
      | _ => have := decodeTag_onTransport b; rw [hd] at this; cases this
  | param c k =>
    cases c <;> simp only [State.fetch, hp, Fetched.instr.injEq] at h <;> subst h <;>
      simp only [exec, execRead, execWrite, State.afterEvent, hp]
  | ack1 c =>
    cases c <;> simp only [State.fetch, hp, Fetched.instr.injEq] at h <;> subst h <;>
      simp only [exec, execRead, execWrite, State.afterEvent, hp]
  | gap c =>
    cases c <;> simp only [State.fetch, hp, Fetched.instr.injEq] at h <;> subst h <;>
      simp only [exec, execWrite, execErase, State.afterEvent, hp]
  | pollWait c =>
    cases c <;> simp only [State.fetch, hp, Fetched.instr.injEq] at h <;> subst h <;>
      simp only [exec, execWrite, execErase, State.afterEvent, hp]
  | rOut _ => simp only [State.fetch, hp, Fetched.instr.injEq] at h; subst h; simp only [exec, execRead, State.afterEvent, hp]
  | wIn _ => simp only [State.fetch, hp, Fetched.instr.injEq] at h; subst h; simp only [exec, execWrite, State.afterEvent, hp]
  | ack2 => simp only [State.fetch, hp, Fetched.instr.injEq] at h; subst h; simp only [exec, execWrite, State.afterEvent, hp]
  | eAck => simp only [State.fetch, hp, Fetched.instr.injEq] at h; subst h; simp only [exec, execErase, State.afterEvent, hp]
  | dOut _ => simp only [State.fetch, hp, Fetched.instr.injEq] at h; subst h; simp only [exec, execDetect, State.afterEvent, hp]
  | _ =>
    simp only [State.fetch, hp] at h
    obtain ⟨he, ho⟩ := bus h
    rw [he]
    simp only [State.transact, if_pos ho, State.afterEvent, hp]

/-- A meaning that answers a next state performed the event of the phase. -/
theorem exec_next {s t : State} {i : Instr} (h : exec i s = .next t) : t = s.afterEvent := by
  by_cases hi : i.onTransport = false
  · rw [exec_bus hi] at h
    obtain ⟨_, h⟩ := State.transact_next h
    obtain ⟨hp, rfl⟩ | ⟨hp, rfl⟩ | ⟨k, hp, rfl⟩ | ⟨j, hp, rfl⟩ | ⟨j, hp, rfl⟩ | ⟨hp, rfl⟩ := h <;>
      simp only [State.afterEvent, hp]
  · have tag : ∀ {k : State → State}, (∀ u, k u = State.dispatched u i) → s.phase = .idle → s.takeTag i k = .next t →
        t = s.afterEvent := by
      intro k hk hp ht
      obtain ⟨hq, rfl⟩ | ⟨b, q, hq, hb, rfl⟩ := State.takeTag_next ht
      · simp only [State.afterEvent, hp, hq]
      · simp only [State.afterEvent, hp, hq, hb, hk]
    cases i with
    | read =>
      obtain ⟨hp, ht⟩ | ⟨k, hp, rfl⟩ | ⟨hp, rfl⟩ | ⟨i, hp, rfl⟩ := execRead_next h
      · exact tag (fun _ => rfl) hp ht
      all_goals simp only [State.afterEvent, hp]
    | write =>
      obtain ⟨hp, ht⟩ | ⟨k, hp, rfl⟩ | ⟨hp, rfl⟩ | ⟨i, hp, rfl⟩ | ⟨hp, rfl⟩ | ⟨hp, rfl⟩ | ⟨hp, rfl⟩ := execWrite_next h
      · exact tag (fun _ => rfl) hp ht
      all_goals simp only [State.afterEvent, hp]
    | erase =>
      obtain ⟨hp, ht⟩ | ⟨hp, rfl⟩ | ⟨hp, rfl⟩ | ⟨hp, rfl⟩ := execErase_next h
      · exact tag (fun _ => rfl) hp ht
      all_goals simp only [State.afterEvent, hp]
    | detect =>
      obtain ⟨hp, ht⟩ | ⟨k, hp, rfl⟩ := execDetect_next h
      · exact tag (fun _ => rfl) hp ht
      · simp only [State.afterEvent, hp]
    | unknown b =>
      obtain ⟨hp, ht⟩ := execUnknown_next h
      exact tag (fun _ => rfl) hp ht
    | _ => exact absurd rfl hi

/-- Outside the transaction phases an instruction or the wait for a tag is always fetched; inside them, where the opcode is one of
the six. -/
theorem State.fetch_cases (s : State) :
    (∃ i, s.fetch = .instr i) ∨ (s.phase = .idle ∧ s.rxq = [] ∧ s.fetch = .waiting) ∨
      (s.fetch = .noOpcode ∧ ∃ e, decodeBus s.xop = .error e) := by
  have bus : (∃ i, s.fetchBus = .instr i) ∨ (s.fetchBus = .noOpcode ∧ ∃ e, decodeBus s.xop = .error e) := by
    unfold State.fetchBus
    split
    · exact .inl ⟨_, rfl⟩
    · exact .inr ⟨rfl, _, ‹_›⟩
  cases hp : s.phase with
  | idle =>
    cases hq : s.rxq with
    | nil => exact .inr (.inl ⟨rfl, rfl, by simp only [State.fetch, hp, hq]⟩)
    | cons b q => exact .inl ⟨_, by simp only [State.fetch, hp, hq]; rfl⟩
  | param c k => exact .inl (by cases c <;> exact ⟨_, by simp only [State.fetch, hp]; rfl⟩)
  | ack1 c => exact .inl (by cases c <;> exact ⟨_, by simp only [State.fetch, hp]; rfl⟩)
  | gap c => exact .inl (by cases c <;> exact ⟨_, by simp only [State.fetch, hp]; rfl⟩)
  | pollWait c => exact .inl (by cases c <;> exact ⟨_, by simp only [State.fetch, hp]; rfl⟩)
  | rOut _ => exact .inl ⟨_, by simp only [State.fetch, hp]; rfl⟩
  | wIn _ => exact .inl ⟨_, by simp only [State.fetch, hp]; rfl⟩
  | ack2 => exact .inl ⟨_, by simp only [State.fetch, hp]; rfl⟩
  | eAck => exact .inl ⟨_, by simp only [State.fetch, hp]; rfl⟩
  | dOut _ => exact .inl ⟨_, by simp only [State.fetch, hp]; rfl⟩
  | _ =>
    simp only [State.fetch, hp, reduceCtorEq, false_and, false_or]
    exact bus

/-- With `rst` low, a step that answers a next state performed the event of the phase. -/
theorem State.act_next {u t : State} (hr : u.rst = false) (h : u.act = .next t) : t = u.afterEvent := by
  simp only [State.act, hr, Bool.false_eq_true, if_false] at h
  split at h
  · exact exec_next h
  · rename_i hf
    simp only [Host.Outcome.next.injEq] at h
    subst h
    obtain ⟨i, hi⟩ | ⟨hp, hq, _⟩ | ⟨hn, _⟩ := u.fetch_cases
    · rw [hf] at hi; cases hi
    · simp only [State.afterEvent, hp, hq]
    · rw [hf] at hn; cases hn
  · cases h

/-- With `rst` low, the step is the event of the phase, wherever the phase is not a transaction with a byte for an opcode that is
none of the six. -/
theorem State.act_eq {u : State} (hr : u.rst = false) (h : u.fetch ≠ .noOpcode) : u.act = .next u.afterEvent := by
  obtain ⟨i, hi⟩ | ⟨hp, hq, hf⟩ | ⟨hn, _⟩ := u.fetch_cases
  · simp only [State.act, hr, hi, exec_fetched hi, Bool.false_eq_true, if_false]
  · simp only [State.act, hr, hf, State.afterEvent, hp, hq, Bool.false_eq_true, if_false]
  · exact absurd hn h

/-- Everything a step can do. -/
theorem step_next {s t : State} (h : step s = .next t) :
    ∃ u, s.latch = some u ∧ ((u.rst = true ∧ t = u.resetStep) ∨ (u.rst = false ∧ t = u.afterEvent)) := by
  unfold step at h
  split at h
  · rename_i u hu
    refine ⟨u, hu, ?_⟩
    cases hr : u.rst with
    | false => exact .inr ⟨rfl, State.act_next hr h⟩
    | true =>
      simp only [State.act, hr, if_true, Host.Outcome.next.injEq] at h
      exact .inl ⟨rfl, h.symm⟩
  · cases h

end Sys2Proof.Machine
end

