-- ==== Sys2Proof/Laws/Run.lean ====
section
/-! SUPPORT. Runs: how steps chain, what a property kept by every step gives, and the quiet host's step. -/

namespace Sys2Proof.Machine

@[simp] theorem run_zero (s : State) : run 0 s = .next s := rfl

theorem run_succ (n : Nat) (s : State) :
    run (n + 1) s = (match step s with
      | .next s' => run n s'
      | .fault r => .fault r
      | .refused r => .refused r : Out) := by
  refine (Host.Core.run.eq_2 core s n).trans ?_
  have e : core.step s = step s := rfl
  cases h : step s <;> rw [e, h] <;> rfl

/-- A step, then the rest. -/
theorem run_next {n : Nat} {s t : State} (h : step s = .next t) : run (n + 1) s = run n t := by rw [run_succ, h]

/-- A run, then the rest. -/
theorem run_append {m n : Nat} {s t : State} (h : run m s = .next t) : run (m + n) s = run n t := by
  induction m generalizing s with
  | zero => cases h; rw [Nat.zero_add]
  | succ m ih =>
    rw [run_succ] at h
    rw [Nat.add_right_comm, run_succ]
    cases hs : step s with
    | next s' => rw [hs] at h; exact ih h
    | fault f => rw [hs] at h; cases h
    | refused r => rw [hs] at h; cases h

/-- A property every step keeps holds along every run. -/
theorem run_keeps {P : State → Prop} (hP : ∀ s t, P s → step s = .next t → P t) {n : Nat} {s t : State} (h : P s)
    (hr : run n s = .next t) : P t := by
  induction n generalizing s with
  | zero => cases hr; exact h
  | succ n ih =>
    rw [run_succ] at hr
    cases hs : step s with
    | next s' => rw [hs] at hr; exact ih (hP _ _ h hs) hr
    | fault f => rw [hs] at hr; cases hr
    | refused r => rw [hs] at hr; cases hr

/-- With no host input left and `rst` low, a step is the event of the phase. -/
theorem step_undisturbed {s : State} (hi : s.inputs = []) (hr : s.rst = false) (hf : s.fetch ≠ .noOpcode) :
    step s = .next s.afterEvent := by
  simp only [step, State.latch_nil hi]
  exact State.act_eq hr hf

end Sys2Proof.Machine
end

