-- ==== Sys2Proof/Laws/Observe.lean ====
section
/-! SUPPORT. The observation of a command: an execution without end is the run itself, and every command has exactly one verdict,
so a hang is a failure of every claim about what the command leaves (spec/60_exceptions.md R254). -/

namespace Sys2Proof.Machine

/-- An execution without end is what the runs give. -/
theorem State.execution_run {s : State} {e : Nat → State} (h : s.execution e) (n : Nat) : run n s = .next (e n) := by
  induction n with
  | zero => rw [run_zero, h.1]
  | succ n ih => rw [run_append (n := 1) ih, run_next (h.2 n), run_zero]

/-- Runs that never stop are an execution without end. -/
theorem State.exists_execution {s : State} (h : ∀ n, ∃ t, run n s = .next t) : ∃ e, s.execution e := by
  choose e he using h
  have h0 : e 0 = s := (Host.Outcome.next.inj (he 0)).symm
  refine ⟨e, h0, fun n => ?_⟩
  have h1 := he (n + 1)
  rw [run_append (n := 1) (he n), run_succ] at h1
  cases hs : step (e n) with
  | next t => rw [hs] at h1; exact congrArg _ (Host.Outcome.next.inj h1)
  | fault f => rw [hs] at h1; cases h1
  | refused r => rw [hs] at h1; cases h1

/-- A state has at most one execution without end. -/
theorem State.execution_unique {s : State} {e d : Nat → State} (he : s.execution e) (hd : s.execution d) : e = d :=
  funext fun n => Host.Outcome.next.inj ((execution_run he n).symm.trans (execution_run hd n))

/-- A run that has stopped stays stopped. -/
theorem run_stopped {m k : Nat} {s : State} (hs : ∀ t, run m s ≠ .next t) : run (m + k) s = run m s := by
  induction m generalizing s with
  | zero => exact absurd (run_zero s) (hs s)
  | succ m ih =>
    rw [Nat.add_right_comm]
    simp only [run_succ] at hs ⊢
    cases hst : step s with
    | next t =>
      rw [hst] at hs
      exact ih hs
    | fault f => rfl
    | refused r => rfl

/-! ### Every command has exactly one verdict -/

/-- The command ends in the outcome `o`: a stop, or the first state back in IDLE. -/
def State.endsIn (s : State) (o : Out) : Prop := ∃ n, s.goesOn n ∧ run (n + 1) s = o ∧ ∀ t, o = .next t → t.phase = .idle

/-- The outcome a verdict other than `stuck` and `hung` is about. -/
def Verdict.outcome : Verdict → Option Out
  | .returned t => some (.next t)
  | .abandoned t => some (.next t)
  | .faulted f => some (.fault f)
  | .refused r => some (.refused r)
  | .stuck => none
  | .hung => none

/-- A verdict about an outcome says that the command ends in it. -/
theorem State.observed_ends {s : State} {v : Verdict} {o : Out} (hv : v.outcome = some o) (h : s.observed v) : s.endsIn o := by
  cases v with
  | returned t =>
    obtain rfl := Option.some.inj hv
    exact h.imp fun _ h => ⟨h.1, h.2.1, fun _ e => Host.Outcome.next.inj e ▸ h.2.2.1⟩
  | abandoned t =>
    obtain rfl := Option.some.inj hv
    exact h.imp fun _ h => ⟨h.1, h.2.1, fun _ e => Host.Outcome.next.inj e ▸ h.2.2.1⟩
  | faulted f =>
    obtain rfl := Option.some.inj hv
    exact h.imp fun _ h => ⟨h.1, h.2, fun _ e => by cases e⟩
  | refused r =>
    obtain rfl := Option.some.inj hv
    exact h.imp fun _ h => ⟨h.1, h.2, fun _ e => by cases e⟩
  | stuck => cases hv
  | hung => cases hv

/-- The outcome, and for a next state the level of `rst`, tell the verdict. -/
theorem State.observed_inj {s : State} {v w : Verdict} {o : Out} (hv : v.outcome = some o) (hw : w.outcome = some o)
    (h : s.observed v) (h' : s.observed w) : v = w := by
  have apart : ∀ {t}, s.observed (.returned t) → s.observed (.abandoned t) → False := fun ⟨_, _, _, _, h⟩ ⟨_, _, _, _, h'⟩ =>
    Bool.false_ne_true (h.symm.trans h')
  cases v <;> cases hv <;> cases w <;> cases hw <;> first | rfl | exact (apart h h').elim | exact (apart h' h).elim

/-- A verdict about no outcome is about an execution without end, out of IDLE. -/
theorem State.observed_endless {s : State} {v : Verdict} (hv : v.outcome = none) (h : s.observed v) :
    ∃ e, s.execution e ∧ (∀ n, (e (n + 1)).phase ≠ .idle) ∧ ((v = .stuck ∧ ¬ WeaklyFair e) ∨ (v = .hung ∧ WeaklyFair e)) := by
  cases v with
  | stuck => exact h.imp fun _ h => ⟨h.1, h.2.1, .inl ⟨rfl, h.2.2⟩⟩
  | hung => exact h.imp fun _ h => ⟨h.1, h.2.1, .inr ⟨rfl, h.2.2⟩⟩
  | _ => cases hv

/-- A command ends in one outcome. -/
theorem State.endsIn_unique {s : State} {o p : Out} (ho : s.endsIn o) (hp : s.endsIn p) : o = p := by
  suffices key : ∀ {n m : Nat} {o p : Out}, n ≤ m → run (n + 1) s = o → (∀ t, o = .next t → t.phase = .idle) → s.goesOn m →
      run (m + 1) s = p → o = p by
    obtain ⟨n, hn, rn, in_⟩ := ho
    obtain ⟨m, hm, rm, im⟩ := hp
    obtain h | h := Nat.le_total n m
    · exact key h rn in_ hm rm
    · exact (key h rm im hn rn).symm
  intro n m o p h rn hi hm rm
  obtain rfl | h := Nat.eq_or_lt_of_le h
  · exact rn.symm.trans rm
  · obtain ⟨k, rfl⟩ := Nat.exists_eq_add_of_lt h
    have stopped : ∀ t, run (n + 1) s ≠ .next t := fun t ht => hm n t h ht (hi t (rn.symm.trans ht))
    rw [← rm, ← rn, show n + k + 1 + 1 = n + 1 + (k + 1) by omega, run_stopped stopped]

/-- A command that ends has no execution without end out of IDLE. -/
theorem State.endsIn_execution {s : State} {o : Out} {e : Nat → State} (ho : s.endsIn o) (he : s.execution e)
    (hn : ∀ n, (e (n + 1)).phase ≠ .idle) : False := by
  obtain ⟨n, _, rn, hi⟩ := ho
  exact hn n (hi _ (rn.symm.trans (State.execution_run he (n + 1))))

/-- Every command has a verdict: in particular, one that never returns and never stops is stuck or hung. -/
theorem State.observed_total (s : State) : ∃ v, s.observed v := by
  by_cases h : ∃ n, s.goesOn n ∧ ∀ t, run (n + 1) s = .next t → t.phase = .idle
  · obtain ⟨n, hn, hi⟩ := h
    cases hr : run (n + 1) s with
    | next t =>
      cases ht : t.rst with
      | false => exact ⟨.returned t, n, hn, hr, hi t hr, ht⟩
      | true => exact ⟨.abandoned t, n, hn, hr, hi t hr, ht⟩
    | fault f => exact ⟨.faulted f, n, hn, hr⟩
    | refused r => exact ⟨.refused r, n, hn, hr⟩
  · have further : ∀ n, s.goesOn n → ∃ t, run (n + 1) s = .next t ∧ t.phase ≠ .idle := by
      intro n hn
      by_contra hc
      exact h ⟨n, hn, fun t ht => by_contra fun hi => hc ⟨t, ht, hi⟩⟩
    have always : ∀ n, s.goesOn n := by
      intro n
      induction n with
      | zero => intro m _ hm _; omega
      | succ n ih =>
        intro m t hm ht
        obtain hm | rfl := Nat.lt_succ_iff_lt_or_eq.mp hm
        · exact ih m t hm ht
        · obtain ⟨u, hu, hi⟩ := further m ih
          exact Host.Outcome.next.inj (hu.symm.trans ht) ▸ hi
    obtain ⟨e, he⟩ := State.exists_execution (s := s) fun n => by
      cases n with
      | zero => exact ⟨s, rfl⟩
      | succ n => exact (further n (always n)).imp fun _ => And.left
    have hn : ∀ n, (e (n + 1)).phase ≠ .idle := fun n => always (n + 1) n _ (Nat.lt_succ_self n) (State.execution_run he (n + 1))
    by_cases hw : WeaklyFair e
    · exact ⟨.hung, e, he, hn, hw⟩
    · exact ⟨.stuck, e, he, hn, hw⟩

/-- No command has two verdicts. -/
theorem State.observed_unique {s : State} {v w : Verdict} (hv : s.observed v) (hw : s.observed w) : v = w := by
  have apart : ∀ {v w : Verdict} {o : Out}, v.outcome = some o → w.outcome = none → s.observed v → s.observed w → False :=
    fun ho hn hv hw =>
      let ⟨_, he, hi, _⟩ := State.observed_endless hn hw
      State.endsIn_execution (State.observed_ends ho hv) he hi
  cases ho : v.outcome with
  | some o =>
    cases hp : w.outcome with
    | some p =>
      obtain rfl := State.endsIn_unique (State.observed_ends ho hv) (State.observed_ends hp hw)
      exact State.observed_inj ho hp hv hw
    | none => exact (apart ho hp hv hw).elim
  | none =>
    cases hp : w.outcome with
    | some p => exact (apart hp ho hw hv).elim
    | none =>
      obtain ⟨e, he, _, hve⟩ := State.observed_endless ho hv
      obtain ⟨d, hd, _, hwd⟩ := State.observed_endless hp hw
      obtain rfl := State.execution_unique he hd
      obtain ⟨rfl, hf⟩ | ⟨rfl, hf⟩ := hve <;> obtain ⟨rfl, hg⟩ | ⟨rfl, hg⟩ := hwd <;> first | rfl | exact absurd hf hg | exact absurd hg hf

/-- A command with any verdict but a return, a hang (R254) or an abandonment by reset (log 35) among them, meets no claim about
what it leaves. -/
theorem State.observed_fails {s : State} {v : Verdict} (h : s.observed v) (hv : ∀ t, v ≠ .returned t) (P : State → Prop) :
    ¬ s.succeeds P := fun ⟨t, ht, _⟩ => hv t (State.observed_unique h ht)

/-- An execution without end, out of IDLE, in which events never cease is a hang. -/
theorem State.hung_of_execution {s : State} {e : Nat → State} (he : s.execution e) (hn : ∀ n, (e (n + 1)).phase ≠ .idle)
    (hw : WeaklyFair e) : s.observed .hung := ⟨e, he, hn, hw⟩

/-- What hangs after a step that is not the return hangs. -/
theorem State.hung_of_step {s t : State} (hs : step s = .next t) (hi : t.phase ≠ .idle) (ht : t.observed .hung) :
    s.observed .hung := by
  obtain ⟨e, he, hn, hw⟩ := ht
  refine State.hung_of_execution (e := fun n => n.casesOn s e) ⟨rfl, fun n => ?_⟩ (fun n => ?_) fun n => ?_
  · cases n with
    | zero => exact hs.trans (congrArg _ he.1.symm)
    | succ n => exact he.2 n
  · cases n with
    | zero => exact fun h => hi (he.1 ▸ h)
    | succ n => exact hn n
  · obtain ⟨m, hm, hh⟩ := hw n
    exact ⟨m + 1, by omega, hh⟩

end Sys2Proof.Machine
end

