-- ==== Sys2Proof/Laws/PerInstr.lean ====
section
/-! SUPPORT. One fact per instruction about its word: it is one byte, no other byte decodes to the instruction on its channel, and a
word of the opcode table with that byte is the instruction wherever the table's priority (log 4) gives it that byte. -/

namespace Sys2Proof.Laws.OneWord

/-- An instruction has a one-byte word (R91, R99), the only one that decodes to it ("Matching is exact on all 8 bits", R91; R100),
and a well-formed one is what the table reads from it. -/
def Statement (i : Instr) : Prop :=
  (encode i).length = 1 ∧ (∀ b, decodeFor i [b] = .ok i → [b] = encode i) ∧
    (i.wellFormed = true → (i.onTransport = false ∨ ∃ e, decodeBus (opcodeOf i) = .error e) →
      decodeTableWord 8 (opcodeOf i).toNat = some i)

/-- A tag that decodes to an instruction is its tag. -/
theorem tag_unique {b : Byte} {i : Instr} (h : (.ok (decodeTag b) : Except DecodeError Instr) = .ok i) : [b] = encode i := by
  simp only [Except.ok.injEq] at h
  subst h
  unfold decodeTag
  split_ifs <;> simp_all [encode, opcodeOf]

/-- An opcode that decodes to an instruction is its opcode. -/
theorem opcode_unique {b : Byte} {i : Instr} (h : decodeBus b = .ok i) : [b] = encode i := by
  unfold decodeBus at h
  split_ifs at h with h1 h2 h3 h4 h5 h6 <;> cases h <;> simp [encode, opcodeOf, *]

theorem read : Statement .read := ⟨rfl, fun _ => tag_unique, fun _ _ => rfl⟩
theorem write : Statement .write := ⟨rfl, fun _ => tag_unique, fun _ _ => rfl⟩
theorem erase : Statement .erase := ⟨rfl, fun _ => tag_unique, fun _ _ => rfl⟩
theorem detect : Statement .detect := ⟨rfl, fun _ => tag_unique, fun _ _ => rfl⟩

theorem unknown (tag : Byte) : Statement (.unknown tag) := by
  refine ⟨rfl, fun _ => tag_unique, fun h hb => ?_⟩
  simp only [Instr.wellFormed, isCommandTag, Bool.not_eq_true', Bool.or_eq_false_iff, beq_eq_false_iff_ne] at h
  obtain hb | ⟨e, he⟩ := hb
  · cases hb
  · simp only [opcodeOf] at he
    simp [decodeTableWord, opcodeOf, he, decodeTag, h.1.1.1, h.1.1.2, h.1.2, h.2]

theorem busRdid : Statement .busRdid := ⟨rfl, fun _ => opcode_unique, fun _ _ => rfl⟩
theorem busRead : Statement .busRead := ⟨rfl, fun _ => opcode_unique, fun _ _ => rfl⟩
theorem busWren : Statement .busWren := ⟨rfl, fun _ => opcode_unique, fun _ _ => rfl⟩
theorem busPp : Statement .busPp := ⟨rfl, fun _ => opcode_unique, fun _ _ => rfl⟩
theorem busCe : Statement .busCe := ⟨rfl, fun _ => opcode_unique, fun _ _ => rfl⟩
theorem busRdsr : Statement .busRdsr := ⟨rfl, fun _ => opcode_unique, fun _ _ => rfl⟩

end Sys2Proof.Laws.OneWord
end

