-- ==== Sys2Proof/Tests/Slice0.lean ====
section
/-! SUPPORT. The model's own tests: ill-formed terms refused, words written out from the spec's encodings, single steps against the
vectors of spec/95_test_vectors.md, and a witness for the hypotheses of every obligation that has some. -/

namespace Sys2Proof.Tests

open Sys2Proof Sys2Proof.Machine

/-! ### Ill-formed terms are refused (WellFormed.lean) -/

theorem smoke_unknown_R : (Instr.unknown 0x52#8).wellFormed = false := by decide
theorem smoke_unknown_W : (Instr.unknown 0x57#8).wellFormed = false := by decide
theorem smoke_unknown_E : (Instr.unknown 0x45#8).wellFormed = false := by decide
theorem smoke_unknown_D : (Instr.unknown 0x44#8).wellFormed = false := by decide
theorem smoke_frame_unknown : (Frame.unknown 0x44#8).wellFormed = false := by decide
theorem smoke_read_nothing : (BusCmd.read 0x0#24 0).wellFormed = false := by decide
theorem smoke_read_too_many : (BusCmd.read 0x0#24 257).wellFormed = false := by decide
theorem smoke_program_nothing : (BusCmd.program 0x0#24 []).wellFormed = false := by decide

set_option maxRecDepth 4000 in
theorem smoke_program_too_many : (BusCmd.program 0x0#24 (List.replicate 257 0x00#8)).wellFormed = false := by decide

/-- A payload of 2^32 bytes has no length field: the length check refuses it. -/
theorem smoke_write_too_long (l : List Byte) (h : l.length = 2 ^ 32) : (Frame.write 0 l).wellFormed = false := by
  simp [Frame.wellFormed, h]

/-! ### Words written out from the encodings -/

/-- The four tags are the ASCII codes of their letters (R91), bit by bit. -/
theorem test_tag_words :
    [decodeTag 0b01010010#8, decodeTag 0b01010111#8, decodeTag 0b01000101#8, decodeTag 0b01000100#8] =
      [.read, .write, .erase, .detect] := by decide

/-- 95_test_vectors.md, Dispatcher: lower case and other bytes are unknown. -/
theorem test_tag_unknown :
    [0x72#8, 0x77#8, 0x65#8, 0x64#8, 0x00#8, 0xFF#8, 0xAA#8, 0x55#8, 0x53#8].all
      (fun b => decodeTag b == .unknown b) = true := by decide

/-- The six opcodes (R100), bit by bit. -/
theorem test_opcode_words :
    [0b10011111#8, 0b00000011#8, 0b00000110#8, 0b00000010#8, 0b11000111#8, 0b00000101#8].map decodeBus =
      [.ok .busRdid, .ok .busRead, .ok .busWren, .ok .busPp, .ok .busCe, .ok .busRdsr] := rfl

/-- No other byte is an opcode (R100): 0x20, a sector erase of other hosts, is none. -/
theorem test_opcode_other : decodeBus 0x20#8 = .error (.notABusOpcode 0x20#8) := rfl

/-- The table's rows (spec/opcode_table.json), each by the constructor LAWS.json names for it. -/
theorem test_table_rows :
    [0x52, 0x57, 0x45, 0x44, 0x00, 0x9F, 0x03, 0x06, 0x02, 0xC7, 0x05].map (decodeTableWord 8) =
      [some .read, some .write, some .erase, some .detect, some (.unknown 0x00#8), some .busRdid, some .busRead,
        some .busWren, some .busPp, some .busCe, some .busRdsr] := by decide

/-- The encoder's words (R91, R100). -/
theorem test_encode_words :
    [encode .read, encode .write, encode .erase, encode .detect, encode (.unknown 0x72#8), encode .busRdid, encode .busRead,
      encode .busWren, encode .busPp, encode .busCe, encode .busRdsr] =
      [[0x52#8], [0x57#8], [0x45#8], [0x44#8], [0x72#8], [0x9F#8], [0x03#8], [0x06#8], [0x02#8], [0xC7#8], [0x05#8]] := by decide

/-- V10: a Read frame. -/
theorem test_frame_read :
    decodeFrame [0x52#8, 0x56#8, 0x34#8, 0x12#8, 0xAB#8, 0x02#8, 0x00#8, 0x00#8, 0x00#8] =
      .ok (.read 0xAB123456#32 0x00000002#32, []) := rfl

/-- V13: a Write frame. -/
theorem test_frame_write :
    encodeFrame (.write 0x00000010#32 [0x5A#8]) =
      [0x57#8, 0x10#8, 0x00#8, 0x00#8, 0x00#8, 0x01#8, 0x00#8, 0x00#8, 0x00#8, 0x5A#8] := by decide

/-- A Write frame whose payload has not come yet is no frame (R94). -/
theorem test_frame_short :
    decodeFrame [0x57#8, 0x10#8, 0x00#8, 0x00#8, 0x00#8, 0x01#8, 0x00#8, 0x00#8, 0x00#8] = .error .shortPayload := rfl

/-- 95_test_vectors.md, Serial framing: `readU32`. -/
theorem test_readU32 :
    [le32 0x01#8 0x00#8 0x00#8 0x00#8, le32 0x00#8 0x01#8 0x00#8 0x00#8, le32 0x78#8 0x56#8 0x34#8 0x12#8,
      le32 0x00#8 0x00#8 0x00#8 0x80#8] = [0x00000001#32, 0x00000100#32, 0x12345678#32, 0x80000000#32] := by decide

/-- 95_test_vectors.md, Serial framing: `TxU32LE` (R98's example is the second). -/
theorem test_txU32LE :
    [leBytes32 0x00020000#32, leBytes32 0x01000000#32] =
      [[0x00#8, 0x00#8, 0x02#8, 0x00#8], [0x00#8, 0x00#8, 0x00#8, 0x01#8]] := by decide

/-- 95_test_vectors.md, Transactions: Read Data at 0x123456 of two bytes. -/
theorem test_bus_read : encodeBusCmd (.read 0x123456#24 2) = [0x03#8, 0x12#8, 0x34#8, 0x56#8, 0x00#8, 0x00#8] := by decide

/-- 95_test_vectors.md, Transactions: Page Program, and the transactions without address. -/
theorem test_bus_others :
    encodeBusCmd (.program 0x000010#24 [0x5A#8]) = [0x02#8, 0x00#8, 0x00#8, 0x10#8, 0x5A#8] ∧
    encodeBusCmd .rdid = [0x9F#8, 0x00#8, 0x00#8, 0x00#8] ∧ encodeBusCmd .rdsr = [0x05#8, 0x00#8] ∧
    encodeBusCmd .wren = [0x06#8] ∧ encodeBusCmd .chipErase = [0xC7#8] := by decide

/-! ### Capacity (95_test_vectors.md, Capacity table) -/

theorem test_capacity :
    [0x10#8, 0x11#8, 0x14#8, 0x17#8, 0x18#8, 0x19#8, 0x1A#8, 0x3F#8, 0x40#8, 0x41#8, 0x4F#8, 0xA0#8, 0x00#8, 0xFF#8].map
      capOf = [0x0#32, 0x00020000#32, 0x00100000#32, 0x00800000#32, 0x01000000#32, 0x02000000#32, 0x0#32, 0x0#32, 0x00100000#32,
        0x0#32, 0x0#32, 0x0#32, 0x0#32, 0x0#32] := rfl

/-- V5, V8, and the manufacturer test. -/
theorem test_decode_capacity :
    [decodeCapacity 0xEF#8 0x40#8 0x00#8, decodeCapacity 0xEF#8 0x40#8 0x18#8, decodeCapacity 0xEF#8 0x11#8 0x00#8,
      decodeCapacity 0x20#8 0x40#8 0x00#8] = [0x00100000#32, 0x01000000#32, 0x00020000#32, 0x0#32] := by decide

/-! ### Single steps -/

/-- The machine after reset, in a phase, with bytes waiting and a chip that will answer these bytes. -/
def stateAt (p : Phase) (q ans : List Byte) : State := { State.reset with phase := p, rxq := q, chip := .oracle ans }

/-- A field of a next state. -/
def got {α : Type} (f : State → α) : Out → Option α
  | .next s => some (f s)
  | .fault _ => none
  | .refused _ => none

/-- V10: the seventh parameter byte of a Read with length 2 in progress; byte 2 of `rem` is replaced, the rest stays. -/
theorem test_read_parameter :
    got (fun t => (t.phase, t.addr, t.rem))
      (step { stateAt (.param .r 6) [0xFF#8] [] with addr := 0xAB123456#32, rem := 0x11223344#32 }) =
      some (.param .r 7, 0xAB123456#32, 0x11FF3344#32) := by decide

/-- V9: a Read of zero length: the acknowledgement, then IDLE. -/
theorem test_read_zero_length :
    got (fun t => (t.phase, t.hist)) (step (stateAt (.ack1 .r) [] [])) = some (.idle, [.tx 0xAA#8]) := by decide

/-- V12: a Write of zero length goes from its first acknowledgement straight to its second. -/
theorem test_write_zero_length :
    got (fun t => (t.phase, t.hist)) (step (stateAt (.ack1 .w) [] [])) = some (.ack2, [.tx 0xAA#8]) := by decide

/-- V13: the one payload byte lands in `buf[0]`, and Write Enable is set up. -/
theorem test_write_payload :
    got (fun t => (t.phase, t.xop, t.xret, t.buf[0])) (step { stateAt (.wIn 0) [0x5A#8] [] with rem := 1, chunk := 1 }) =
      some (.xCsOn, 0x06#8, .wWrenDone, 0x5A#8) := rfl

/-- 95_test_vectors.md, Dispatcher: `E` begins the Write Enable transaction. -/
theorem test_erase_tag :
    got (fun t => (t.phase, t.xop, t.xret, t.rxq)) (step (stateAt .idle [0x45#8, 0x44#8] [])) =
      some (.xCsOn, 0x06#8, .eWrenDone, [0x44#8]) := by decide

/-- R216: after the gap, Chip Erase. -/
theorem test_erase_gap :
    got (fun t => (t.phase, t.xop, t.xret, t.hist)) (step (stateAt (.gap .e) [] [])) =
      some (.xCsOn, 0xC7#8, .eCeDone, [.wait .wrenGap]) := by decide

/-- 95_test_vectors.md, Dispatcher: `D` begins the Read JEDEC ID transaction. -/
theorem test_detect_tag :
    got (fun t => (t.phase, t.xop, t.xhasAddr, t.xnresp, t.xdst)) (step (stateAt .idle [0x44#8] [])) =
      some (.xCsOn, 0x9F#8, false, 3, .jedec) := by decide

/-- V8: the last of the seven bytes is the top byte of the capacity 0x01000000. -/
theorem test_detect_last_byte :
    got (fun t => (t.phase, t.hist)) (step { stateAt (.dOut 6) [] [] with cap := 0x01000000#32 }) =
      some (.idle, [.tx 0x01#8]) := by decide

/-- V6: an unknown tag: no answer, no bus event, IDLE. -/
theorem test_unknown :
    got (fun t => (t.phase, t.hist, t.rxq)) (step (stateAt .idle [0x72#8] [])) = some (.idle, [.rx 0x72#8], []) := by decide

/-- V5: the second response byte of Read JEDEC ID lands in `jedec[1]`. -/
theorem test_rdid_response :
    got (fun t => (t.phase, t.jedec.toList, t.hist))
      (step { stateAt (.xResp 1) [] [0x40#8] with xop := 0x9F#8, xnresp := 3, xdst := .jedec }) =
      some (.xResp 2, [0x00#8, 0x40#8, 0x00#8], [.xfer 0x00#8 0x40#8]) := by decide

/-- V5: at the release the fallback gives 0x00100000. -/
theorem test_rdid_release :
    got (fun t => (t.phase, t.cap, t.hist))
      (step { stateAt .xCsOff [] [] with xop := 0x9F#8, xret := .dIdDone, jedec := #v[0xEF#8, 0x40#8, 0x00#8] }) =
      some (.dOut 0, 0x00100000#32, [.csDeassert]) := by decide

/-- V10: the first address byte of Read Data at 0x123456 is 0x12. -/
theorem test_read_data_address :
    got (fun t => (t.phase, t.hist))
      (step { stateAt (.xAddr 0) [] [0x77#8] with xop := 0x03#8, xhasAddr := true, xaddr := 0x123456#24 }) =
      some (.xAddr 1, [.xfer 0x12#8 0x77#8]) := by decide

/-- V10: after the last address byte the response begins. -/
theorem test_read_data_last_address :
    got (fun t => (t.phase, t.hist))
      (step { stateAt (.xAddr 2) [] [0x77#8] with xop := 0x03#8, xhasAddr := true, xaddr := 0x123456#24, xnresp := 2 }) =
      some (.xResp 0, [.xfer 0x56#8 0x77#8]) := by decide

/-- 95_test_vectors.md, Transactions: Write Enable is the opcode alone. -/
theorem test_wren_opcode :
    got (fun t => (t.phase, t.hist)) (step { stateAt .xOp [] [0x00#8] with xop := 0x06#8 }) =
      some (.xCsOff, [.xfer 0x06#8 0x00#8]) := by decide

/-- V13: the payload byte of Page Program, the last one. -/
theorem test_pp_payload :
    got (fun t => (t.phase, t.hist))
      (step { stateAt (.xPay 0) [] [0x00#8] with xop := 0x02#8, xnpay := 1, buf := State.reset.buf.set 0 0x5A#8 }) =
      some (.xCsOff, [.xfer 0x5A#8 0x00#8]) := rfl

/-- R190: at the release of Chip Erase the first poll is set up. -/
theorem test_ce_release :
    got (fun t => (t.phase, t.xop, t.xnresp, t.xdst, t.xret, t.csActive))
      (step { stateAt .xCsOff [] [] with xop := 0xC7#8, xret := .eCeDone, csActive := true }) =
      some (.xCsOn, 0x05#8, 1, .sr, .pollDone .e, false) := by decide

/-- 95_test_vectors.md, Busy-wait: 0xFE reads bit 0 clear. -/
theorem test_rdsr_clear :
    got (fun t => t.phase) (step { stateAt .xCsOff [] [] with xop := 0x05#8, xret := .pollDone .e, sr := 0xFE#8 }) =
      some .eAck := by decide

/-- 95_test_vectors.md, Busy-wait: 0x03 reads bit 0 set. -/
theorem test_rdsr_busy :
    got (fun t => t.phase) (step { stateAt .xCsOff [] [] with xop := 0x05#8, xret := .pollDone .w, sr := 0x03#8 }) =
      some (.pollWait .w) := by decide

/-- R233: a chip that answers 0xFF for ever gives the status byte 0xFF, and will again. -/
theorem test_rdsr_steady :
    got (fun t => (t.phase, t.sr, t.chip))
      (step { stateAt (.xResp 0) [] [] with xop := 0x05#8, xnresp := 1, xdst := .sr, chip := .steady [] 0xFF#8 }) =
      some (.xCsOff, 0xFF#8, .steady [] 0xFF#8) := by decide

/-- Every row of the table, placed where the machine fetches, runs as the first instruction after reset (log 5). -/
theorem test_placed_rows :
    [0x52, 0x57, 0x45, 0x44, 0x00, 0x9F, 0x03, 0x06, 0x02, 0xC7, 0x05].map
      (fun w => got (fun t => t.hist) (step (State.reset.withFetchWord 8 w))) =
      [some [.rx 0x52#8], some [.rx 0x57#8], some [.rx 0x45#8], some [.rx 0x44#8], some [.rx 0x00#8], some [.csAssert],
        some [.csAssert], some [.csAssert], some [.csAssert], some [.csAssert], some [.csAssert]] := by decide

/-- R280, R259: reset wins over the tag that waits; R281: chip-select is released. -/
theorem test_reset_step :
    got (fun t => (t.phase, t.csActive, t.hist))
      (step { stateAt .xOp [0x52#8] [] with csActive := true, rst := true, xop := 0x06#8 }) =
      some (.idle, false, [.reset]) := by decide

/-- R280, R292, log 35: a Write that reset interrupts is observed as abandoned. -/
theorem test_abandoned : ∃ t, { stateAt .ack2 [] [] with rst := true }.observed (.abandoned t) :=
  ⟨_, 0, fun _ _ h => absurd h (Nat.not_lt_zero _), rfl, rfl, rfl⟩

/-! ### The reference chip (D23) -/

/-- A small `RefChip` with 16 bytes of array. -/
def smallChip : RefChip :=
  { mem := [(3, 0x5A#8)], capLog := 4, wel := false, busy := 0, jedec := #v[0xEF#8, 0x40#8, 0x18#8], cmd := [], draws := [2] }

/-- Programming only clears bits, and only after Write Enable. -/
theorem test_refchip_program :
    ((smallChip.transaction 0 [0x06#8]).2.transaction 1 [0x02#8, 0x00#8, 0x00#8, 0x03#8, 0x0F#8]).2.peek 3 = 0x0A#8 ∧
    (smallChip.transaction 1 [0x02#8, 0x00#8, 0x00#8, 0x03#8, 0x0F#8]).2.peek 3 = 0x5A#8 := by decide

/-- The status byte: WEL in bit 1, busy in bit 0; a poll counts the busy count down. -/
theorem test_refchip_status :
    (((smallChip.transaction 0 [0x06#8]).2.transaction 1 [0xC7#8]).2.transaction 2 [0x05#8, 0x00#8, 0x00#8, 0x00#8]).1 =
      [none, some 0x01#8, some 0x01#8, some 0x00#8] := by decide

/-! ### Witnesses: the hypotheses of the obligations can be met, each clause at a boundary -/

/-- InstructionWordsRoundTrip. -/
theorem witness_InstructionWordsRoundTrip :
    Instr.busCe.wellFormed = true ∧ (Instr.unknown 0x00#8).wellFormed = true ∧ (Instr.unknown 0xFF#8).wellFormed = true := by decide

/-- FramesRoundTrip: no payload, the widest operands, an unknown byte next to a tag. -/
theorem witness_FramesRoundTrip :
    (Frame.write 0xFFFFFFFF#32 []).wellFormed = true ∧ (Frame.read 0xFFFFFFFF#32 0xFFFFFFFF#32).wellFormed = true ∧
      (Frame.unknown 0x53#8).wellFormed = true := by decide

/-- DecodedFrameSpellsItsBytes. -/
theorem witness_DecodedFrameSpellsItsBytes : decodeFrame [0x45#8, 0x44#8] = .ok (.erase, [0x44#8]) := rfl

/-- BusTransactionsRoundTrip: both ends of the byte count. -/
theorem witness_BusTransactionsRoundTrip :
    (BusCmd.read 0xFFFFFF#24 256).wellFormed = true ∧ (BusCmd.read 0x0#24 1).wellFormed = true ∧
      (BusCmd.program 0x0#24 [0x00#8]).wellFormed = true := by decide

/-- TagMatchingIsExact: a byte that is none of the four. -/
theorem witness_TagMatchingIsExact :
    (0x72#8 : Byte) ≠ 0x52#8 ∧ (0x72#8 : Byte) ≠ 0x57#8 ∧ (0x72#8 : Byte) ≠ 0x45#8 ∧ (0x72#8 : Byte) ≠ 0x44#8 := by decide

/-- StepRunsDecodedInstruction: a tag waiting, a transaction phase, and an empty queue. -/
theorem witness_StepRunsDecodedInstruction :
    (let s := stateAt .idle [0x52#8] [];
      s.latch = some s ∧ s.rst = false ∧ s.fetch = .instr .read ∧ s.phase = .idle ∧ s.rxq = 0x52#8 :: []) ∧
    (let s := { stateAt .xCsOff [] [] with xop := 0x05#8 };
      s.latch = some s ∧ s.rst = false ∧ s.phase.onBus = true ∧ decodeBus s.xop = .ok .busRdsr) ∧
    (State.reset.latch = some State.reset ∧ State.reset.rst = false ∧ State.reset.phase = .idle ∧ State.reset.rxq = []) :=
  ⟨⟨rfl, rfl, rfl, rfl, rfl⟩, ⟨rfl, rfl, rfl, rfl⟩, ⟨rfl, rfl, rfl, rfl⟩⟩

/-- StepRunsDecodedInstruction, its other phases: the first and the last index of each. -/
theorem witness_StepRunsDecodedInstruction_phases :
    ∀ p ∈ [Phase.param .r 0, .param .r 7, .param .w 0, .param .w 7, .ack1 .r, .ack1 .w, .rOut 0, .rOut 255, .wIn 0, .wIn 255,
        .gap .w, .gap .e, .pollWait .w, .pollWait .e, .ack2, .eAck, .dOut 0, .dOut 6],
      (stateAt p [] []).latch = some (stateAt p [] []) ∧ (stateAt p [] []).rst = false ∧ (stateAt p [] []).phase = p :=
  fun _ _ => ⟨rfl, rfl, rfl⟩

/-- ResetWinsOverEveryEvent: with chip-select released and asserted. -/
theorem witness_ResetWinsOverEveryEvent :
    (let s := { stateAt .idle [] [] with rst := true };
      s.latch = some s ∧ s.rst = true ∧ s.csActive = false) ∧
    (let s := { stateAt (.xPay 255) [] [] with rst := true, csActive := true };
      s.latch = some s ∧ s.rst = true ∧ s.csActive = true) := ⟨⟨rfl, rfl, rfl⟩, ⟨rfl, rfl, rfl⟩⟩

/-- RX_FLUSH_ON_RESET has one of its two values. -/
theorem witness_flush : Config.rxFlushOnReset = true ∨ Config.rxFlushOnReset = false := by
  cases Config.rxFlushOnReset <;> simp

/-- One byte more than the queue holds. -/
def tooMany : HostInput := { rst := false, txReady := true, arrive := List.replicate (Config.rxDepth + 1) 0x00#8 }

/-- As many bytes as the queue holds. -/
def justFits : HostInput := { rst := false, txReady := true, arrive := List.replicate Config.rxDepth 0x00#8 }

/-- OverrunIsTheOnlyFault: the smallest overrun of an empty queue. -/
theorem witness_OverrunIsTheOnlyFault :
    let s := { State.reset with inputs := [tooMany] };
    s.inputs = tooMany :: [] ∧ tooMany.arrive ≠ [] ∧ Config.rxDepth < s.rxq.length + tooMany.arrive.length := by
  refine ⟨rfl, ?_, ?_⟩
  · simp [tooMany, List.replicate_succ]
  · simp [tooMany, State.reset]

/-- DeliveredBytesQueueInOrder: exactly RX_DEPTH bytes into an empty queue. -/
theorem witness_DeliveredBytesQueueInOrder :
    let s := { State.reset with inputs := [justFits] };
    s.inputs = justFits :: [] ∧ s.rxq.length + justFits.arrive.length ≤ Config.rxDepth := by
  refine ⟨rfl, ?_⟩
  simp [justFits, State.reset]

/-- BlockedStepChangesNothing: a byte awaited, and a byte offered. -/
theorem witness_BlockedStepChangesNothing :
    (State.reset.inputs = [] ∧ State.reset.rst = false ∧ State.reset.blocked = true) ∧
    (let s := { stateAt (.dOut 6) [] [] with txReady := false };
      s.inputs = [] ∧ s.rst = false ∧ s.blocked = true) := by decide

/-- StepPerformsTheNamedEvent and HostBytesAreTakenInOrder: an event, and a blocked step. -/
theorem witness_StepPerformsTheNamedEvent :
    (∃ t, (stateAt .idle [0x72#8] []).latch = some (stateAt .idle [0x72#8] []) ∧ (stateAt .idle [0x72#8] []).rst = false ∧
      step (stateAt .idle [0x72#8] []) = .next t) ∧
    (State.reset.latch = some State.reset ∧ State.reset.rst = false ∧ step State.reset = .next State.reset) :=
  ⟨⟨_, rfl, rfl, rfl⟩, ⟨rfl, rfl, rfl⟩⟩

/-- DispatchStartsTheCommand: each of the four tags at the head of the queue, and another byte. -/
theorem witness_DispatchStartsTheCommand :
    (∀ b ∈ [0x52#8, 0x57#8, 0x45#8, 0x44#8, 0x56#8],
      (stateAt .idle [b] []).phase = .idle ∧ (stateAt .idle [b] []).rxq = b :: []) ∧ isCommandTag 0x56#8 = false :=
  ⟨fun _ _ => ⟨rfl, rfl⟩, rfl⟩

/-- UnknownTagIsDiscarded. -/
theorem witness_UnknownTagIsDiscarded :
    (stateAt .idle [0x51#8] []).phase = .idle ∧ (stateAt .idle [0x51#8] []).rxq = 0x51#8 :: [] ∧ (0x51#8 : Byte) ≠ 0x52#8 ∧
      (0x51#8 : Byte) ≠ 0x57#8 ∧ (0x51#8 : Byte) ≠ 0x45#8 ∧ (0x51#8 : Byte) ≠ 0x44#8 := by decide

/-- ParameterByteLands: the bytes at the edges of the two fields, for R and W. -/
theorem witness_ParameterByteLands :
    ∀ c : Transfer, ∀ k ∈ [(0 : Fin 8), 3, 4, 7],
      (stateAt (.param c k) [0xFF#8] []).rxq = 0xFF#8 :: [] ∧ (stateAt (.param c k) [0xFF#8] []).phase = .param c k :=
  fun _ _ _ => ⟨rfl, rfl⟩

/-- EightParameterBytesAreAddressAndLength. -/
theorem witness_EightParameterBytesAreAddressAndLength :
    let s := stateAt (.param .w 0) (leBytes32 0xFFFFFFFF#32 ++ leBytes32 0x0#32 ++ []) [];
    s.inputs = [] ∧ s.rst = false ∧ s.phase = .param .w 0 ∧ s.rxq = leBytes32 0xFFFFFFFF#32 ++ leBytes32 0x0#32 ++ [] :=
  ⟨rfl, rfl, rfl, rfl⟩

/-- LoopHeadTakesTheChunk: nothing left, and something left. -/
theorem witness_LoopHeadTakesTheChunk : State.reset.rem = 0 ∧ ({ State.reset with rem := 1 } : State).rem ≠ 0 := by decide

/-- AdvanceMovesByTheChunk: the last chunk, and a chunk of a longer transfer. -/
theorem witness_AdvanceMovesByTheChunk :
    (let s := { State.reset with rem := 256, chunk := 256, addr := 0xFFFFFFFF#32 };
      s.chunk.toNat ≤ s.rem.toNat) ∧
    (let s := { State.reset with rem := 0xFFFFFFFF#32, chunk := 256 };
      s.chunk.toNat ≤ s.rem.toNat) := by decide

/-- ChunksCoverTheTransfer: the second chunk of 257 bytes, and its end. -/
theorem witness_ChunksCoverTheTransfer :
    let s := { State.reset with rem := 257 };
    1 < chunkCount s.rem.toNat ∧ 2 = chunkCount s.rem.toNat := by decide

/-- OpeningAckThenLoopHead. -/
theorem witness_OpeningAckThenLoopHead :
    ∀ c : Transfer, (stateAt (.ack1 c) [] []).txReady = true ∧ (stateAt (.ack1 c) [] []).phase = .ack1 c := fun _ => ⟨rfl, rfl⟩

/-- ReadByteGoesOut: an inner byte, the last byte of a short chunk, the last byte of a full one. -/
theorem witness_ReadByteGoesOut :
    (let s := { stateAt (.rOut 254) [] [] with chunk := 256 };
      s.phase = .rOut 254 ∧ s.txReady = true ∧ s.chunk.toNat ≤ 256 ∧ (254 : Fin 256).val + 1 < s.chunk.toNat) ∧
    (let s := { stateAt (.rOut 0) [] [] with chunk := 1 };
      s.phase = .rOut 0 ∧ s.txReady = true ∧ s.chunk.toNat ≤ 256 ∧ s.chunk.toNat ≤ (0 : Fin 256).val + 1) ∧
    (let s := { stateAt (.rOut 255) [] [] with chunk := 256 };
      s.phase = .rOut 255 ∧ s.txReady = true ∧ s.chunk.toNat ≤ 256 ∧ s.chunk.toNat ≤ (255 : Fin 256).val + 1) := by decide

/-- ReadByteGoesOut, its last clause: the release of a Read Data transaction leads to the first byte. -/
theorem witness_ReadByteGoesOut_first :
    let s := { stateAt .xCsOff [] [] with xop := 0x03#8, xret := .rdDone, rem := 1, chunk := 1 };
    ∃ t, exec .busRead s = .next t ∧ t.phase = .rOut 0 ∧ ∀ k, s.phase ≠ .rOut k :=
  ⟨_, rfl, rfl, fun _ h => by cases h⟩

/-- PayloadByteComesIn: an inner byte, and the last byte of a full chunk. -/
theorem witness_PayloadByteComesIn :
    (let s := { stateAt (.wIn 254) [0x00#8] [] with chunk := 256 };
      s.phase = .wIn 254 ∧ s.rxq = 0x00#8 :: [] ∧ s.chunk.toNat ≤ 256 ∧ (254 : Fin 256).val + 1 < s.chunk.toNat) ∧
    (let s := { stateAt (.wIn 255) [0x00#8] [] with chunk := 256 };
      s.phase = .wIn 255 ∧ s.rxq = 0x00#8 :: [] ∧ s.chunk.toNat ≤ 256 ∧ s.chunk.toNat ≤ (255 : Fin 256).val + 1) := by decide

/-- GapThenWriteClassSetup and PollDelayThenNextPoll: each phase for each command. -/
theorem witness_GapThenWriteClassSetup :
    ∀ c : WriteClass, (stateAt (.gap c) [] []).phase = .gap c ∧ (stateAt (.pollWait c) [] []).phase = .pollWait c :=
  fun _ => ⟨rfl, rfl⟩

/-- FinalAckThenIdle. -/
theorem witness_FinalAckThenIdle :
    (stateAt .ack2 [] []).txReady = true ∧ (stateAt .ack2 [] []).phase = .ack2 ∧ (stateAt .eAck [] []).txReady = true ∧
      (stateAt .eAck [] []).phase = .eAck := by decide

/-- FinalAckThenIdle, its last clauses: a zero length, a last chunk, an erase. -/
theorem witness_FinalAckThenIdle_before :
    (∃ t, exec .write (stateAt (.ack1 .w) [] []) = .next t ∧ t.phase = .ack2) ∧
    (∃ t, exec .busRdsr { stateAt .xCsOff [] [] with xop := 0x05#8, xret := .pollDone .w, rem := 1, chunk := 1 } = .next t ∧
      t.phase = .ack2) ∧
    (∃ t, exec .busRdsr { stateAt .xCsOff [] [] with xop := 0x05#8, xret := .pollDone .e } = .next t ∧ t.phase = .eAck) :=
  ⟨⟨_, rfl, rfl⟩, ⟨_, rfl, rfl⟩, ⟨_, rfl, rfl⟩⟩

/-- DetectByteGoesOut: the edges of its two ranges. -/
theorem witness_DetectByteGoesOut :
    (∀ k ∈ [(0 : Fin 7), 2, 3, 6], (stateAt (.dOut k) [] []).phase = .dOut k ∧ (stateAt (.dOut k) [] []).txReady = true) ∧
      (2 : Fin 7).val ≤ 2 ∧ 3 ≤ (3 : Fin 7).val := ⟨fun _ _ => ⟨rfl, rfl⟩, by decide, by decide⟩

/-- TransactionOpens: both phases, for each of the six instructions. -/
theorem witness_TransactionOpens :
    ∀ i ∈ [Instr.busRdid, .busRead, .busWren, .busPp, .busCe, .busRdsr], i.onTransport = false ∧
      (let s := { stateAt .xCsOn [] [] with xop := opcodeOf i };
        s.xop = opcodeOf i ∧ s.phase = .xCsOn) ∧
      (let s := { stateAt .xOp [] [] with xop := opcodeOf i };
        s.xop = opcodeOf i ∧ s.phase = .xOp) := by decide

/-- AddressBytesGoOut: the first and the last address byte. -/
theorem witness_AddressBytesGoOut :
    ∀ k ∈ [(0 : Fin 3), 2],
      (let s := { stateAt (.xAddr k) [] [] with xop := 0x03#8 };
        s.xop = opcodeOf .busRead ∧ s.phase = .xAddr k) ∧
      (let s := { stateAt (.xAddr k) [] [] with xop := 0x02#8 };
        s.xop = opcodeOf .busPp ∧ s.phase = .xAddr k) := fun _ _ => ⟨⟨rfl, rfl⟩, ⟨rfl, rfl⟩⟩

/-- PayloadBytesGoOut: the last payload byte of a full page, and an inner one. -/
theorem witness_PayloadBytesGoOut :
    (let s := { stateAt (.xPay 255) [] [] with xop := 0x02#8, xnpay := 256 };
      s.xop = 0x02#8 ∧ s.phase = .xPay 255 ∧ s.xnpay.toNat ≤ 256) ∧
    (let s := { stateAt (.xPay 254) [] [] with xop := 0x02#8, xnpay := 256 };
      s.xop = 0x02#8 ∧ s.phase = .xPay 254 ∧ s.xnpay.toNat ≤ 256) := by decide

/-- ResponseBytesLand: the last response byte of each of the three instructions. -/
theorem witness_ResponseBytesLand :
    (let s := { stateAt (.xResp 2) [] [] with xop := 0x9F#8, xnresp := 3, xdst := .jedec };
      s.phase = .xResp 2 ∧ s.xnresp.toNat ≤ 256 ∧ s.xop = 0x9F#8 ∧ s.xdst = .jedec ∧ (2 : Fin 256).val < 3) ∧
    (let s := { stateAt (.xResp 255) [] [] with xop := 0x03#8, xnresp := 256, xdst := .buf };
      s.phase = .xResp 255 ∧ s.xnresp.toNat ≤ 256 ∧ s.xop = 0x03#8 ∧ s.xdst = .buf) ∧
    (let s := { stateAt (.xResp 0) [] [] with xop := 0x05#8, xnresp := 1, xdst := .sr };
      s.phase = .xResp 0 ∧ s.xnresp.toNat ≤ 256 ∧ s.xop = 0x05#8 ∧ s.xdst = .sr) := by decide

/-- ReleaseThenContinuation: every pair of an opcode and a continuation, and both values of the busy bit. -/
theorem witness_ReleaseThenContinuation :
    (∀ p ∈ [(0x9F#8, Ret.dIdDone), (0x03#8, .rdDone), (0x06#8, .wWrenDone), (0x06#8, .eWrenDone), (0x02#8, .wPpDone),
        (0xC7#8, .eCeDone), (0x05#8, .pollDone .w), (0x05#8, .pollDone .e)],
      (let s := { stateAt .xCsOff [] [] with xop := p.1, xret := p.2 };
        s.phase = .xCsOff ∧ s.xop = p.1 ∧ s.xret = p.2)) ∧
    (0xFF#8 : Byte).getLsbD 0 = true ∧ (0xFE#8 : Byte).getLsbD 0 = false := ⟨fun _ _ => ⟨rfl, rfl, rfl⟩, by decide, by decide⟩

/-- SetupSpellsTheTransaction: a full chunk. -/
theorem witness_SetupSpellsTheTransaction : ({ State.reset with chunk := 256 } : State).chunk.toNat ≤ 256 := by decide

/-- TransactionRunsToItsEnd: Write Enable, the shortest transaction. -/
theorem witness_TransactionRunsToItsEnd :
    let s := { stateAt .xCsOn [] ([0x11#8] ++ []) with xop := 0x06#8 };
    s.inputs = [] ∧ s.rst = false ∧ s.phase = .xCsOn ∧ decodeBus s.xop = .ok .busWren ∧ s.xnpay.toNat ≤ 256 ∧
      s.xnresp.toNat ≤ 256 ∧ s.chip = .oracle ([0x11#8] ++ []) ∧ [0x11#8].length = s.mosiBytes.length :=
  ⟨rfl, rfl, rfl, rfl, by decide, by decide, rfl, by decide⟩

/-- TransferCommandFrame: a step of Read and a step of Write. -/
theorem witness_TransferCommandFrame :
    (∃ t, exec .read (stateAt (.ack1 .r) [] []) = .next t) ∧ (∃ t, exec .write (stateAt (.gap .w) [] []) = .next t) :=
  ⟨⟨_, rfl⟩, ⟨_, rfl⟩⟩

/-- TransferCommandFrame, the clauses on addr, rem and chunk: a byte not accepted, an inner byte, and a zero length. -/
theorem witness_TransferCommandFrame_kept :
    (let s := { stateAt (.rOut 255) [] [] with chunk := 256, txReady := false };
      (∃ t, exec .read s = .next t) ∧ s.phase = .rOut 255 ∧ s.txReady = false) ∧
    (let s := { stateAt (.rOut 254) [] [] with chunk := 256 };
      (∃ t, exec .read s = .next t) ∧ s.phase = .rOut 254 ∧ (254 : Fin 256).val + 1 < s.chunk.toNat) ∧
    (let s := stateAt (.ack1 .w) [] [];
      (∃ t, exec .write s = .next t) ∧ s.phase = .ack1 .w ∧ s.rem = 0) :=
  ⟨⟨⟨_, rfl⟩, rfl, rfl⟩, ⟨⟨_, rfl⟩, rfl, by decide⟩, ⟨⟨_, rfl⟩, rfl, rfl⟩⟩

/-- ShortCommandFrame: a step of each. -/
theorem witness_ShortCommandFrame :
    (∃ t, exec .erase (stateAt .eAck [] []) = .next t) ∧ (∃ t, exec .detect (stateAt (.dOut 0) [] []) = .next t) ∧
      (∃ t, exec (.unknown 0x72#8) (stateAt .idle [0x72#8] []) = .next t) := ⟨⟨_, rfl⟩, ⟨_, rfl⟩, ⟨_, rfl⟩⟩

/-- A state of the invariant inside a Chip Erase. -/
def erasing : State := { State.reset with phase := .xCsOff, xop := 0xC7#8, xret := .eCeDone, csActive := true }

theorem erasing_inv : erasing.Inv :=
  ⟨rfl, .inr (.inr (.inr (.inr (.inl ⟨rfl, rfl, rfl, rfl, rfl⟩)))), Nat.zero_le _, rfl, trivial⟩

/-- A state of the invariant at the release of a Page Program of one byte on a `RefChip`. -/
def programming : State :=
  { State.reset with
    phase := .xCsOff, xop := 0x02#8, xhasAddr := true, xaddr := 0x000003#24, addr := 0x00000003#32, rem := 1, chunk := 1
    xnpay := 1, xnresp := 0, xret := .wPpDone, csActive := true
    chip := .ref { smallChip with wel := true, cmd := [0x02#8, 0x00#8, 0x00#8, 0x03#8, 0x00#8] } }

theorem programming_inv : programming.Inv :=
  ⟨rfl, .inr (.inr (.inr (.inl ⟨rfl, rfl, rfl, rfl, rfl, rfl, by decide, rfl⟩))), Nat.zero_le _, rfl, fun _ => rfl⟩

/-- BusInstructionFrame and FlashChangesOnlyByWriteClass. -/
theorem witness_BusInstructionFrame :
    erasing.Inv ∧ Instr.busCe.onTransport = false ∧ ∃ t, exec .busCe erasing = .next t := ⟨erasing_inv, rfl, ⟨_, rfl⟩⟩

/-- A state of the invariant at the release of a poll of a Write of one byte. -/
def polling (sr : Byte) : State :=
  { State.reset with
    phase := .xCsOff, xop := 0x05#8, xnresp := 1, xdst := .sr, xret := .pollDone .w, rem := 1, chunk := 1, csActive := true, sr := sr }

theorem polling_inv (sr : Byte) : (polling sr).Inv :=
  ⟨rfl, .inr (.inr (.inr (.inr (.inr ⟨rfl, rfl, rfl, rfl, rfl, .inr ⟨rfl, (by decide : (1 : Word) ≠ 0), rfl⟩⟩)))), Nat.zero_le _, rfl, trivial⟩

/-- BusInstructionFrame, its last clause: another continuation, and a poll that reads bit 0 set. -/
theorem witness_BusInstructionFrame_kept :
    erasing.xret ≠ .pollDone .w ∧ (polling 0x01#8).Inv ∧ (polling 0x01#8).sr.getLsbD 0 = true ∧
      ∃ t, exec .busRdsr (polling 0x01#8) = .next t := ⟨by decide, polling_inv _, by decide, ⟨_, rfl⟩⟩

/-- FlashChangesOnlyByWriteClass, its third clause: address 4 is none of the addresses programmed. -/
theorem witness_FlashChangesOnlyByWriteClass :
    programming.Inv ∧ (∃ t, exec .busPp programming = .next t) ∧
      ∀ j, j < programming.xnpay.toNat → 4 % smallChip.capacity ≠ (RefChip.pageAddr programming.xaddr j).toNat % smallChip.capacity := by
  refine ⟨programming_inv, ⟨_, rfl⟩, ?_⟩
  intro j hj
  have h0 : j = 0 := by
    have : programming.xnpay.toNat = 1 := rfl
    omega
  subst h0
  decide

/-- ResetMeetsTheInvariants and EveryRunIsDisciplined: a full queue, and a `RefChip` in form. -/
theorem witness_ResetMeetsTheInvariants :
    (List.replicate Config.rxDepth 0x52#8).length ≤ Config.rxDepth ∧ (Chip.ref smallChip).wf = true := by
  refine ⟨by simp, by decide⟩

/-- StepKeepsTheInvariant, StepKeepsTheBusDiscipline, NothingElseStopsTheMachine: the reset state meets both and steps. -/
theorem witness_StepKeepsTheInvariant :
    State.reset.Inv ∧ State.reset.Disciplined ∧ ∃ t, step State.reset = .next t :=
  ⟨⟨rfl, trivial, Nat.zero_le _, rfl, trivial⟩, ⟨_, rfl, rfl⟩, ⟨_, rfl⟩⟩

/-- StepKeepsTheInvariant inside a transaction. -/
theorem witness_StepKeepsTheInvariant_inside : erasing.Inv ∧ ∃ t, step erasing = .next t := ⟨erasing_inv, ⟨_, rfl⟩⟩

/-- StaleRegistersAreNeverSeen: two states that differ in every kind of register. -/
theorem witness_StaleRegistersAreNeverSeen :
    State.reset.phase = .idle ∧
      State.reset.agree { State.reset with addr := 1, rem := 2, chunk := 3, cap := 4, sr := 5, xop := 6, xret := .eCeDone } :=
  ⟨rfl, rfl, rfl, rfl, rfl, rfl, rfl, rfl, rfl⟩

/-- DetectRunsWhole. -/
theorem witness_DetectRunsWhole :
    let s := stateAt .idle (encodeFrame .detect ++ []) [0xFF#8, 0xEF#8, 0x40#8, 0x18#8];
    s.quiet ∧ s.phase = .idle ∧ s.rxq = encodeFrame .detect ++ [] ∧ s.chip = .oracle (0xFF#8 :: 0xEF#8 :: 0x40#8 :: 0x18#8 :: []) :=
  ⟨⟨rfl, rfl, rfl⟩, rfl, rfl, rfl⟩

/-- UnknownBytesAreConsumed. -/
theorem witness_UnknownBytesAreConsumed :
    let s := stateAt .idle ([0x72#8, 0x00#8] ++ [0x52#8]) [];
    s.quiet ∧ s.phase = .idle ∧ s.rxq = [0x72#8, 0x00#8] ++ [0x52#8] ∧ ∀ b ∈ [0x72#8, 0x00#8], isCommandTag b = false :=
  ⟨⟨rfl, rfl, rfl⟩, rfl, rfl, by decide⟩

/-- ReadRunsWhole: zero length (V9), and two bytes (V10). -/
theorem witness_ReadRunsWhole :
    (let s := stateAt .idle (encodeFrame (.read 0x0#32 0x0#32) ++ []) ([] ++ []);
      s.quiet ∧ s.phase = .idle ∧ s.rxq = encodeFrame (.read 0x0#32 0x0#32) ++ [] ∧ s.chip = .oracle ([] ++ []) ∧
        ([] : List Byte).length = readAnswers (0x0#32 : Word).toNat) ∧
    (let ans := [0x00#8, 0x00#8, 0x00#8, 0x00#8, 0x11#8, 0x22#8];
      let s := stateAt .idle (encodeFrame (.read 0xAB123456#32 0x2#32) ++ []) (ans ++ []);
      s.quiet ∧ s.phase = .idle ∧ s.rxq = encodeFrame (.read 0xAB123456#32 0x2#32) ++ [] ∧ s.chip = .oracle (ans ++ []) ∧
        ans.length = readAnswers (0x2#32 : Word).toNat) :=
  ⟨⟨⟨rfl, rfl, rfl⟩, rfl, rfl, rfl, rfl⟩, ⟨⟨rfl, rfl, rfl⟩, rfl, rfl, rfl, rfl⟩⟩

/-- Answers for a Write of one byte, busy once. -/
def oneChunk : ChunkAnswers :=
  { wren := 0x00#8, program := [0x00#8, 0x00#8, 0x00#8, 0x00#8, 0x00#8], busy := [(0x00#8, 0x01#8)], last := (0x00#8, 0x00#8) }

/-- WriteRunsWhole: zero length (V12), and one byte (V13, busy once). -/
theorem witness_WriteRunsWhole :
    answersFit [] [] ∧ answersFit [0x5A#8] [oneChunk] ∧ [0x5A#8].length < 2 ^ 32 ∧
      (let s := stateAt .idle (encodeFrame (.write 0x10#32 [0x5A#8]) ++ []) (([oneChunk] : List ChunkAnswers).flatMap ChunkAnswers.bytes ++ []);
        s.quiet ∧ s.phase = .idle ∧ s.rxq = encodeFrame (.write 0x10#32 [0x5A#8]) ++ [] ∧
          s.chip = .oracle (([oneChunk] : List ChunkAnswers).flatMap ChunkAnswers.bytes ++ [])) := by
  refine ⟨rfl, ⟨by decide, rfl, ⟨by simp [oneChunk, writeInProgress, Config.wipBit], by decide⟩, rfl⟩, by decide, ⟨rfl, rfl, rfl⟩, rfl, rfl, rfl⟩

/-- EraseRunsWhole: no busy poll, and one. -/
theorem witness_EraseRunsWhole :
    pollsEnd [] (0x00#8, 0xFE#8) ∧ pollsEnd [(0x00#8, 0x03#8)] (0x00#8, 0x00#8) ∧
      (let s := stateAt .idle (encodeFrame .erase ++ []) (0x01#8 :: 0x02#8 :: (pollBytes [] ++ [0x00#8, 0xFE#8] ++ []));
        s.quiet ∧ s.phase = .idle ∧ s.rxq = encodeFrame .erase ++ [] ∧
          s.chip = .oracle (0x01#8 :: 0x02#8 :: (pollBytes [] ++ [0x00#8, 0xFE#8] ++ []))) :=
  ⟨⟨by simp, by decide⟩, ⟨by simp [writeInProgress, Config.wipBit], by decide⟩, ⟨rfl, rfl, rfl⟩, rfl, rfl, rfl⟩

/-- BusyChipHoldsTheBlock: two busy polls. -/
theorem witness_BusyChipHoldsTheBlock :
    let ps : List PollAnswer := [(0x00#8, 0x01#8), (0x00#8, 0xFF#8)];
    let s := (stateAt .idle [] (pollBytes ps ++ [])).setupRdsr .e;
    s.quiet ∧ (∃ u, s = State.setupRdsr u .e) ∧ (∀ p ∈ ps, writeInProgress p.2 = true) ∧ s.chip = .oracle (pollBytes ps ++ []) :=
  ⟨⟨rfl, rfl, rfl⟩, ⟨_, rfl⟩, by simp [writeInProgress, Config.wipBit], rfl⟩

/-- BusyChipHoldsTheBlock, its second and third clauses: a chip whose status reads 0x01 for ever, at the first poll of a Write and
with an Erase waiting. -/
theorem witness_BusyChipHoldsTheBlock_hang :
    (let s := { (stateAt .idle [] []).setupRdsr .w with chip := .steady [] 0x01#8 };
      s.quiet ∧ (∃ u, s = State.setupRdsr u .w) ∧ s.chip = .steady [] 0x01#8 ∧ (0x01#8 : Byte).getLsbD 0 = true) ∧
    (let s := { stateAt .idle (encodeFrame .erase ++ []) [] with chip := .steady [0x00#8, 0x00#8] 0x01#8 };
      s.quiet ∧ s.phase = .idle ∧ s.rxq = encodeFrame .erase ++ [] ∧ s.chip = .steady [0x00#8, 0x00#8] 0x01#8) :=
  ⟨⟨⟨rfl, rfl, rfl⟩, ⟨{ stateAt .idle [] [] with chip := .steady [] 0x01#8 }, rfl⟩, rfl, by decide⟩, ⟨rfl, rfl, rfl⟩, rfl, rfl, rfl⟩

/-- CapacityTableIsTotal: the edges of each range, and a byte outside both. -/
theorem witness_CapacityTableIsTotal :
    (0x11 ≤ (0x11#8 : Byte).toNat ∧ (0x19#8 : Byte).toNat ≤ 0x19) ∧
    (∀ id ∈ [0x10#8, 0x1A#8, 0x3F#8, 0x41#8, 0x91#8, 0xA0#8], ¬ (0x11 ≤ id.toNat ∧ id.toNat ≤ 0x19) ∧
      ¬ (0x40 ≤ id.toNat ∧ id.toNat ≤ 0x90 ∧ id.toNat % 16 = 0)) := by decide

/-- CapacityFallsBackForOneManufacturer: each of its three cases. -/
theorem witness_CapacityFallsBackForOneManufacturer :
    capOf 0x18#8 ≠ 0 ∧ capOf 0x00#8 = 0 ∧ (0xEF#8 : Byte) = 0xEF#8 ∧ (0xEE#8 : Byte) ≠ 0xEF#8 := by decide

/-- ProgramThenReadGivesTheBytes: two bytes at the end of a page's first 16. -/
theorem witness_ProgramThenReadGivesTheBytes :
    Memory.wf smallChip.mem = true ∧ [0x12#8, 0x34#8] ≠ [] ∧ (0x00000E#24 : BusAddr).toNat % 256 + [0x12#8, 0x34#8].length ≤ 256 ∧
      (0x00000E#24 : BusAddr).toNat + [0x12#8, 0x34#8].length ≤ smallChip.capacity ∧
      ∀ i, i < [0x12#8, 0x34#8].length → smallChip.peek ((0x00000E#24 : BusAddr).toNat + i) = 0xFF#8 := by decide

/-- ChipEraseNeedsWriteEnable: a chip with the latch clear. -/
theorem witness_ChipEraseNeedsWriteEnable : smallChip.wel = false := rfl

/-- PortsShowTheNextEvent: a byte offered, and a byte taken. -/
theorem witness_PortsShowTheNextEvent :
    (stateAt .ack2 [] []).rst = false ∧ (stateAt .ack2 [] []).names (.tx 0xAA#8) ∧ (stateAt .idle [0x52#8] []).names (.rx 0x52#8) :=
  ⟨rfl, rfl, ⟨0x52#8, [], rfl, rfl⟩⟩

end Sys2Proof.Tests
end

section
/-! PROOFS. What the phase says of the registers (`State.phaseOk`) holds after the event of every phase and after a reset, and it
rules out the refusal of a byte that is no opcode. -/

namespace Sys2Proof.Machine

/-! ### Chunks and descriptors -/

/-- A chunk in progress moves at least one byte. -/
theorem State.chunkOk.pos {s : State} (h : s.chunkOk) : 0 < s.chunk.toNat := by
  obtain ⟨hr, hc⟩ := h
  rw [hc, chunkOf_toNat]
  have hne : s.rem.toNat ≠ 0 := fun e => hr (BitVec.eq_of_toNat_eq e)
  omega

/-- The opcode register of a descriptor holds one of the six opcodes. -/
theorem State.descriptorOk.decodes {s : State} (h : s.descriptorOk) : ∃ i, decodeBus s.xop = .ok i := by
  obtain ⟨ho, -⟩ | ⟨ho, -⟩ | ⟨ho, -⟩ | ⟨ho, -⟩ | ⟨ho, -⟩ | ⟨ho, -⟩ := h <;> exact ⟨_, by rw [ho]; rfl⟩

/-- Only Page Program has payload bytes: those of the chunk. -/
theorem State.descriptorOk.of_payload {s : State} (h : s.descriptorOk) (hn : s.xnpay ≠ 0) :
    s.xret = .wPpDone ∧ s.xnpay = s.chunk := by
  obtain ⟨-, -, h0, -⟩ | ⟨-, -, -, h0, -⟩ | ⟨-, -, h0, -⟩ | ⟨-, -, -, hp, -, hr, -⟩ | ⟨-, -, h0, -⟩ | ⟨-, -, h0, -⟩ := h
  case inr.inr.inr.inl => exact ⟨hr, hp⟩
  all_goals exact absurd h0 hn

/-- Read Data is the transaction that returns to `RD_DONE`: it answers into `buf`, as many bytes as the chunk has. -/
theorem State.descriptorOk.of_rdDone {s : State} (h : s.descriptorOk) (hr : s.xret = .rdDone) :
    s.xdst = .buf ∧ s.xnresp = s.chunk ∧ s.chunkOk := by
  simp only [State.descriptorOk, hr, reduceCtorEq, and_false, false_and, or_false, false_or, true_and] at h
  obtain ⟨-, -, -, -, hn, hd, hc⟩ := h
  exact ⟨hd, hn, hc⟩

/-- Read JEDEC ID is the transaction that returns to `D_ID_DONE`. -/
theorem State.descriptorOk.of_dIdDone {s : State} (h : s.descriptorOk) (hr : s.xret = .dIdDone) :
    s.xdst = .jedec ∧ s.xnresp = 3 := by
  simp only [State.descriptorOk, hr, reduceCtorEq, and_false, false_and, or_false] at h
  obtain ⟨-, -, -, hn, hd, -⟩ := h
  exact ⟨hd, hn⟩

/-- A status poll is the transaction that returns to `POLL_DONE(c)`. -/
theorem State.descriptorOk.of_pollDone {s : State} {c : WriteClass} (h : s.descriptorOk) (hr : s.xret = .pollDone c) :
    s.xdst = .sr ∧ s.xnresp = 1 := by
  simp only [State.descriptorOk, hr, reduceCtorEq, and_false, false_and, false_or] at h
  obtain ⟨-, -, -, hn, hd, -⟩ := h
  exact ⟨hd, hn⟩

/-- Every transaction of a Write has a chunk in progress. -/
theorem State.descriptorOk.of_write {s : State} (h : s.descriptorOk)
    (hr : s.xret = .wWrenDone ∨ s.xret = .wPpDone ∨ s.xret = .pollDone .w) : s.chunkOk := by
  obtain hr | hr | hr := hr <;> simp [State.descriptorOk, hr] at h <;> simp [h]

/-! ### The shared operations -/

theorem State.setupRdid_phaseOk (s : State) : s.setupRdid.phaseOk := .inl ⟨rfl, rfl, rfl, rfl, rfl, rfl⟩

theorem State.setupRead_phaseOk {s : State} (h : s.chunkOk) : s.setupRead.phaseOk :=
  .inr (.inl ⟨rfl, rfl, rfl, rfl, rfl, rfl, rfl, h⟩)

theorem State.setupWren_phaseOk {s : State} {c : WriteClass} (h : c = .w → s.chunkOk) : (s.setupWren c).phaseOk :=
  match c with
  | .w => .inr (.inr (.inl ⟨rfl, rfl, rfl, rfl, .inr ⟨rfl, h rfl⟩⟩))
  | .e => .inr (.inr (.inl ⟨rfl, rfl, rfl, rfl, .inl rfl⟩))

theorem State.setupPp_phaseOk {s : State} (h : s.chunkOk) : s.setupPp.phaseOk :=
  .inr (.inr (.inr (.inl ⟨rfl, rfl, rfl, rfl, rfl, rfl, h⟩)))

theorem State.setupCe_phaseOk (s : State) : s.setupCe.phaseOk :=
  .inr (.inr (.inr (.inr (.inl ⟨rfl, rfl, rfl, rfl, rfl⟩))))

theorem State.setupRdsr_phaseOk {s : State} {c : WriteClass} (h : c = .w → s.chunkOk) : (s.setupRdsr c).phaseOk :=
  match c with
  | .w => .inr (.inr (.inr (.inr (.inr ⟨rfl, rfl, rfl, rfl, rfl, .inr ⟨rfl, h rfl⟩⟩))))
  | .e => .inr (.inr (.inr (.inr (.inr ⟨rfl, rfl, rfl, rfl, rfl, .inl rfl⟩))))

theorem State.loopHead_phaseOk (s : State) (c : Transfer) : (s.loopHead c).phaseOk := by
  by_cases hr : s.rem = 0
  · rw [State.loopHead_done c hr]
    cases c with
    | r => trivial
    | w => exact hr
  · have hc : (s.setChunk (chunkOf s.rem)).chunkOk := ⟨hr, rfl⟩
    cases c with
    | r => rw [State.loopHead_read hr]; exact State.setupRead_phaseOk hc
    | w => rw [State.loopHead_write hr]; exact ⟨hc, hc.pos⟩

theorem State.pollDone_phaseOk {s : State} {c : WriteClass} (h : c = .w → s.chunkOk) : (s.pollDone c).phaseOk := by
  cases hb : s.busyFlag with
  | true =>
    rw [State.pollDone_busy c hb]
    cases c with
    | w => exact ⟨h rfl, hb⟩
    | e => exact hb
  | false =>
    cases c with
    | w => rw [State.pollDone_write hb]; exact State.loopHead_phaseOk _ _
    | e => rw [State.pollDone_erase hb]; exact hb

theorem State.continueAt_phaseOk {s : State} (h : s.descriptorOk) : s.continueAt.phaseOk := by
  cases hr : s.xret with
  | rdDone =>
    obtain ⟨-, -, hc⟩ := h.of_rdDone hr
    simp only [State.continueAt, hr]
    exact ⟨hc, hc.pos⟩
  | wWrenDone => simp only [State.continueAt, hr]; exact h.of_write (.inl hr)
  | wPpDone => simp only [State.continueAt, hr]; exact State.setupRdsr_phaseOk fun _ => h.of_write (.inr (.inl hr))
  | eWrenDone => simp only [State.continueAt, hr]; trivial
  | eCeDone => simp only [State.continueAt, hr]; exact State.setupRdsr_phaseOk nofun
  | dIdDone => simp only [State.continueAt, hr]; rfl
  | pollDone c =>
    simp only [State.continueAt, hr]
    refine State.pollDone_phaseOk fun hc => h.of_write (.inr (.inr ?_))
    rw [hr, hc]

/-! ### The phases of a transaction -/

theorem State.goto_afterPay_phaseOk {s t : State} (h : s.descriptorOk) (hn : t.xnresp = s.xnresp) :
    (s.goto t.afterPay).phaseOk := by
  unfold State.afterPay
  split
  · exact ⟨h, hn ▸ ‹_›⟩
  · exact h

theorem State.goto_afterAddr_phaseOk {s t : State} (h : s.descriptorOk) (hp : t.xnpay = s.xnpay) (hn : t.xnresp = s.xnresp) :
    (s.goto t.afterAddr).phaseOk := by
  unfold State.afterAddr
  split
  · exact ⟨h, hp ▸ ‹_›⟩
  · exact State.goto_afterPay_phaseOk h hn

/-- Capturing a byte leaves the descriptor and the chunk alone. -/
theorem State.capture_descriptorOk {s : State} (h : s.descriptorOk) (i : Fin 256) (v : Byte) : (s.capture i v).descriptorOk := by
  simpa [State.descriptorOk, State.chunkOk] using h

theorem State.evOp_phaseOk {s : State} (h : s.descriptorOk) : s.evOp.phaseOk := by
  unfold State.evOp State.afterOp
  split
  · exact ⟨h, ‹_›⟩
  · exact State.goto_afterAddr_phaseOk (s := s.xfer _) h rfl rfl

theorem State.evAddr_phaseOk {s : State} (h : s.descriptorOk) (ha : s.xhasAddr = true) (k : Fin 3) : (s.evAddr k).phaseOk := by
  unfold State.evAddr
  split
  · exact ⟨h, ha⟩
  · exact State.goto_afterAddr_phaseOk (s := s.xfer _) h rfl rfl

theorem State.evPay_phaseOk {s : State} (h : s.descriptorOk) (i : Fin 256) : (s.evPay i).phaseOk := by
  unfold State.evPay
  split
  · obtain ⟨hj, hl⟩ := nextIndex_some ‹_›
    exact ⟨h, hj ▸ hl⟩
  · exact State.goto_afterPay_phaseOk (s := s.xfer _) h rfl

theorem State.evResp_phaseOk {s : State} (h : s.descriptorOk) (i : Fin 256) : (s.evResp i).phaseOk := by
  have hc := State.capture_descriptorOk (s := s.xfer 0x00#8) h i (s.answer 0x00#8)
  unfold State.evResp
  split
  · obtain ⟨hj, hl⟩ := nextIndex_some ‹_›
    exact ⟨hc, by simpa [hj] using hl⟩
  · exact hc

/-! ### The phases of the commands -/

/-- A property of the state that waits and of the state after a byte holds after `RxByte`. -/
theorem State.rxByte_keeps {P : State → Prop} {s : State} {k : Byte → State → State} (hs : P s)
    (hk : ∀ b q, P (k b ((s.setRxq q).log (.rx b)))) : P (s.rxByte k) := by
  cases hq : s.rxq with
  | nil => rwa [State.rxByte_nil hq]
  | cons b q => rw [State.rxByte_cons hq]; exact hk b q

/-- A property of the state that waits and of the state after the byte is sent holds after `TxByte`. -/
theorem State.txByte_keeps {P : State → Prop} {s : State} {v : Byte} {k : State → State} (hs : P s)
    (hk : P (k (s.log (.tx v)))) : P (s.txByte v k) := by
  cases ht : s.txReady with
  | true => rwa [State.txByte_ready ht]
  | false => rwa [State.txByte_blocked ht]

theorem State.evParam_phaseOk {s : State} (ok : s.phaseOk) (c : Transfer) (k : Fin 8) : (s.evParam c k).phaseOk := by
  refine State.rxByte_keeps ok fun b q => ?_
  dsimp only
  cases nextIndex k 8 <;> trivial

theorem State.evROut_phaseOk {s : State} (ok : s.phaseOk) (hc : s.chunkOk) (i : Fin 256) : (s.evROut i).phaseOk := by
  refine State.txByte_keeps ok ?_
  split
  · obtain ⟨hj, hl⟩ := nextIndex_some ‹_›
    exact ⟨hc, hj ▸ hl⟩
  · exact State.loopHead_phaseOk _ _

theorem State.evWIn_phaseOk {s : State} (ok : s.phaseOk) (hc : s.chunkOk) (i : Fin 256) : (s.evWIn i).phaseOk := by
  refine State.rxByte_keeps ok fun b q => ?_
  dsimp only
  split
  · obtain ⟨hj, hl⟩ := nextIndex_some ‹_›
    exact ⟨hc, hj ▸ hl⟩
  · exact State.setupWren_phaseOk fun _ => hc

theorem State.evDOut_phaseOk {s : State} (ok : s.phaseOk) (hcap : s.cap = decodeCapacity s.jedec[0] s.jedec[1] s.jedec[2])
    (k : Fin 7) : (s.evDOut k).phaseOk := by
  refine State.txByte_keeps ok ?_
  split
  · exact hcap
  · trivial

theorem State.dispatched_phaseOk (s : State) (i : Instr) : (s.dispatched i).phaseOk := by
  cases i with
  | erase => exact State.setupWren_phaseOk nofun
  | detect => exact State.setupRdid_phaseOk s
  | _ => trivial

/-! ### The step -/

/-- The event of the phase keeps what the phase says of the registers. -/
theorem State.afterEvent_phaseOk {s : State} (ok : s.phaseOk) : s.afterEvent.phaseOk := by
  have hs := ok
  cases hp : s.phase <;> simp only [State.phaseOk, hp] at hs <;> simp only [State.afterEvent, hp]
  case idle =>
    split
    · exact ok
    · exact State.dispatched_phaseOk _ _
  case param c k => exact State.evParam_phaseOk ok c k
  case ack1 c => exact State.txByte_keeps ok (State.loopHead_phaseOk _ c)
  case rOut i => exact State.evROut_phaseOk ok hs.1 i
  case wIn i => exact State.evWIn_phaseOk ok hs.1 i
  case gap c =>
    cases c with
    | w => exact State.setupPp_phaseOk (s := s.wait .wrenGap) hs
    | e => exact State.setupCe_phaseOk _
  case pollWait c =>
    cases c with
    | w => exact State.setupRdsr_phaseOk (s := s.wait .poll) fun _ => hs.1
    | e => exact State.setupRdsr_phaseOk nofun
  case ack2 => exact State.txByte_keeps ok trivial
  case eAck => exact State.txByte_keeps ok trivial
  case dOut k => exact State.evDOut_phaseOk ok hs k
  case xCsOn => exact hs
  case xOp => exact State.evOp_phaseOk hs
  case xAddr k => exact State.evAddr_phaseOk hs.1 hs.2 k
  case xPay i => exact State.evPay_phaseOk hs.1 i
  case xResp i => exact State.evResp_phaseOk hs.1 i
  case xCsOff => exact State.continueAt_phaseOk (s := s.csDeassert) hs

theorem State.resetStep_phaseOk (s : State) : s.resetStep.phaseOk := trivial

/-- Where the phase's registers are right, a transaction phase has one of the six opcodes, so no step is refused. -/
theorem State.fetch_ne_noOpcode {s : State} (ok : s.phaseOk) : s.fetch ≠ .noOpcode := by
  have bus : s.descriptorOk → s.fetchBus ≠ .noOpcode := fun h => by
    obtain ⟨i, hi⟩ := h.decodes
    simp [State.fetchBus, hi]
  cases hp : s.phase with
  | idle => cases hq : s.rxq <;> simp [State.fetch, hp, hq]
  | param c k => cases c <;> simp [State.fetch, hp]
  | ack1 c => cases c <;> simp [State.fetch, hp]
  | gap c => cases c <;> simp [State.fetch, hp]
  | pollWait c => cases c <;> simp [State.fetch, hp]
  | rOut i | wIn i | ack2 | eAck | dOut i => simp [State.fetch, hp]
  | xCsOn | xOp | xCsOff => simp only [State.phaseOk, State.fetch, hp] at ok ⊢; exact bus ok
  | xAddr i | xPay i | xResp i => simp only [State.phaseOk, State.fetch, hp] at ok ⊢; exact bus ok.1

end Sys2Proof.Machine
end

section
/-! PROOFS. Stale registers (R39): a relation between two machines that look alike from outside and agree on the registers the phase
still reads (`State.linked`), that every step keeps. -/

namespace Sys2Proof.Machine

/-! ### What two machines have in common -/

/-- Parameter byte `j` of a command as the registers hold it: `addr`, then `rem` (R141). -/
def State.paramByte (s : State) (j : Nat) : Byte := if j < 4 then byteOf s.addr j else byteOf s.rem (j - 4)

/-- The first `n` parameter bytes agree. -/
def State.sameParams (s t : State) (n : Nat) : Prop := ∀ j, j < n → s.paramByte j = t.paramByte j

/-- What is left of the transfer agrees. -/
def State.sameTransfer (s t : State) : Prop := s.addr = t.addr ∧ s.rem = t.rem

/-- The transfer and its chunk in progress agree. -/
def State.sameChunk (s t : State) : Prop := s.sameTransfer t ∧ s.chunk = t.chunk

/-- `buf[0 .. n−1]` agrees. -/
def State.sameBuf (s t : State) (n : Nat) : Prop := ∀ j : Fin 256, j.val < n → s.buf[j.val] = t.buf[j.val]

/-- `jedec[0 .. n−1]` agrees. -/
def State.sameJedec (s t : State) (n : Nat) : Prop := ∀ j : Fin 3, j.val < n → s.jedec[j.val] = t.jedec[j.val]

/-- The descriptor and the continuation agree. -/
def State.sameDescriptor (s t : State) : Prop :=
  s.xop = t.xop ∧ s.xhasAddr = t.xhasAddr ∧ s.xaddr = t.xaddr ∧ s.xnpay = t.xnpay ∧ s.xnresp = t.xnresp ∧ s.xdst = t.xdst ∧
    s.xret = t.xret

/-- What a transaction carries to its continuation, besides the bytes it captures, agrees: the transfer of a Read or a Write, and
the payload until it has been sent. -/
def State.sameCarried (s t : State) : Prop :=
  match s.xret with
  | .rdDone => s.sameChunk t
  | .wWrenDone => s.sameChunk t ∧ s.sameBuf t s.chunk.toNat
  | .wPpDone => s.sameChunk t ∧ s.sameBuf t s.chunk.toNat
  | .eWrenDone => True
  | .eCeDone => True
  | .dIdDone => True
  | .pollDone .w => s.sameChunk t
  | .pollDone .e => True

/-- The transaction in progress is the same. -/
def State.sameTransaction (s t : State) : Prop := s.sameDescriptor t ∧ s.sameCarried t

/-- The first `n` response bytes agree, where they have landed. -/
def State.sameCaptured (s t : State) (n : Nat) : Prop :=
  match s.xdst with
  | .buf => s.sameBuf t n
  | .jedec => s.sameJedec t n
  | .sr => 0 < n → s.sr = t.sr

/-- The registers the phase still reads agree; in `IDLE` that is none (R39). -/
def State.known (s t : State) : Prop :=
  match s.phase with
  | .idle => True
  | .param _ k => s.sameParams t k.val
  | .ack1 _ => s.sameTransfer t
  | .rOut _ => s.sameChunk t ∧ s.sameBuf t s.chunk.toNat
  | .wIn i => s.sameChunk t ∧ s.sameBuf t i.val
  | .gap .w => s.sameChunk t ∧ s.sameBuf t s.chunk.toNat
  | .gap .e => True
  | .pollWait .w => s.sameChunk t
  | .pollWait .e => True
  | .ack2 => True
  | .eAck => True
  | .dOut _ => s.jedec = t.jedec ∧ s.cap = t.cap
  | .xCsOn => s.sameTransaction t
  | .xOp => s.sameTransaction t
  | .xAddr _ => s.sameTransaction t
  | .xPay _ => s.sameTransaction t
  | .xResp i => s.sameTransaction t ∧ s.sameCaptured t i.val
  | .xCsOff => s.sameTransaction t ∧ s.sameCaptured t s.xnresp.toNat

/-- Two machines that look alike and agree on the registers the phase still reads. -/
def State.linked (s t : State) : Prop := s.agree t ∧ s.known t

/-! ### Looking alike: one rule per update -/

section
variable {s t : State} (h : s.agree t)
include h

theorem State.agree.goto (p : Phase) : (s.goto p).agree (t.goto p) := ⟨rfl, h.2⟩

theorem State.agree.log (e : Event) : (s.log e).agree (t.log e) := by
  obtain ⟨hp, hc, hr, ht, hq, hi, hch, hh⟩ := h
  exact ⟨hp, hc, hr, ht, hq, hi, hch, congrArg (· ++ [e]) hh⟩

theorem State.agree.setRxq (q : List Byte) : (s.setRxq q).agree (t.setRxq q) := by
  obtain ⟨hp, hc, hr, ht, -, hi, hch, hh⟩ := h
  exact ⟨hp, hc, hr, ht, rfl, hi, hch, hh⟩

theorem State.agree.setChip (c : Chip) : (s.setChip c).agree (t.setChip c) := by
  obtain ⟨hp, hc, hr, ht, hq, hi, -, hh⟩ := h
  exact ⟨hp, hc, hr, ht, hq, hi, rfl, hh⟩

theorem State.agree.setCs (v : Bool) : (s.setCs v).agree (t.setCs v) := by
  obtain ⟨hp, -, hr, ht, hq, hi, hch, hh⟩ := h
  exact ⟨hp, rfl, hr, ht, hq, hi, hch, hh⟩

theorem State.agree.setPorts (x : HostInput) (rest : List HostInput) : (s.setPorts x rest).agree (t.setPorts x rest) := by
  obtain ⟨hp, hc, -, -, hq, -, hch, hh⟩ := h
  exact ⟨hp, hc, rfl, rfl, hq, rfl, hch, hh⟩

theorem State.agree.capture (i : Fin 256) (v w : Byte) : (s.capture i v).agree (t.capture i w) := by
  simpa [State.agree] using h

theorem State.agree.csAssert : s.csAssert.agree t.csAssert := by
  obtain ⟨-, -, -, -, -, -, hch, -⟩ := id h
  unfold State.csAssert
  rw [hch]
  exact ((h.setChip _).setCs true).log _

theorem State.agree.csDeassert : s.csDeassert.agree t.csDeassert := by
  obtain ⟨-, -, -, -, -, -, hch, hh⟩ := id h
  unfold State.csDeassert
  rw [hch, hh]
  exact ((h.setChip _).setCs false).log _

/-- The same chip with the same history answers the same byte. -/
theorem State.agree.answer (o : Byte) : s.answer o = t.answer o := by
  obtain ⟨-, -, -, -, -, -, hch, hh⟩ := h
  simp only [State.answer, hch, hh]

theorem State.agree.xfer (o : Byte) : (s.xfer o).agree (t.xfer o) := by
  obtain ⟨-, -, -, -, -, -, hch, hh⟩ := id h
  unfold State.xfer
  rw [h.answer, hch, hh]
  exact (h.setChip _).log _

end

/-! ### The registers: one rule per update that fills one -/

/-- Four bytes that agree are the same value. -/
theorem word_ext {v w : Word} (h : ∀ j, j < 4 → byteOf v j = byteOf w j) : v = w := by
  rw [← le32_leBytes32 v, ← le32_leBytes32 w, h 0 (by omega), h 1 (by omega), h 2 (by omega), h 3 (by omega)]

/-- All eight parameter bytes are the whole transfer. -/
theorem State.sameParams.transfer {s t : State} (h : s.sameParams t 8) : s.sameTransfer t := by
  refine ⟨word_ext fun j hj => ?_, word_ext fun j hj => ?_⟩
  · simpa [State.paramByte, hj] using h j (by omega)
  · simpa [State.paramByte] using h (j + 4) (by omega)

/-- Parameter byte `k` as `PARAM(c, k)` stores it (R141). -/
def State.storeParam (s : State) (k : Fin 8) (b : Byte) : State :=
  if k.val < 4 then s.setAddr (setByte s.addr k.val b) else s.setRem (setByte s.rem (k.val - 4) b)

theorem State.storeParam_agree {s t : State} (h : s.agree t) (k : Fin 8) (b : Byte) :
    (s.storeParam k b).agree (t.storeParam k b) := by
  unfold State.storeParam
  split <;> exact h

theorem State.paramByte_storeParam (s : State) (k : Fin 8) (b : Byte) {j : Nat} (hj : j < 8) :
    (s.storeParam k b).paramByte j = if j = k.val then b else s.paramByte j := by
  unfold State.storeParam State.paramByte
  by_cases hk : k.val < 4 <;> by_cases hj4 : j < 4
  · simp [hk, hj4, byteOf_setByte]
  · have hne : j ≠ k.val := by omega
    simp [hk, hj4, hne]
  · have hne : j ≠ k.val := by omega
    simp [hk, hj4, hne]
  · have hidx : j - 4 = k.val - 4 ↔ j = k.val := by omega
    simp only [if_neg hk, if_neg hj4, State.setRem_rem]
    rw [byteOf_setByte _ _ (by omega) (by omega)]
    simp only [hidx]

/-- A parameter byte taken by both machines joins those that agree. -/
theorem State.sameParams.store {s t : State} {k : Fin 8} (h : s.sameParams t k.val) (b : Byte) :
    (s.storeParam k b).sameParams (t.storeParam k b) (k.val + 1) := by
  intro j hj
  rw [State.paramByte_storeParam s k b (by omega), State.paramByte_storeParam t k b (by omega)]
  split
  · rfl
  · exact h j (by omega)

/-- A byte written to both buffers joins those that agree. -/
theorem State.sameBuf.set {s t : State} {n : Nat} (i : Fin 256) (b : Byte)
    (h : ∀ j : Fin 256, j.val < n → j ≠ i → s.buf[j.val] = t.buf[j.val]) : (s.setBuf i b).sameBuf (t.setBuf i b) n := by
  intro j hj
  simp only [State.setBuf_buf, Vector.getElem_set]
  split
  · rfl
  · exact h j hj fun e => ‹¬ _› (congrArg Fin.val e.symm)

theorem State.sameJedec.set {s t : State} {i : Nat} (b : Byte) (h : s.sameJedec t i) :
    (s.setJedec i b).sameJedec (t.setJedec i b) (i + 1) := by
  intro j hj
  by_cases hi : i < 3
  · simp only [State.setJedec_jedec, hi, dif_pos, Vector.getElem_set]
    split
    · rfl
    · exact h j (by omega)
  · simp only [State.setJedec_jedec, hi, dif_neg, not_false_iff]
    exact h j (by omega)

/-- All three bytes are the whole register. -/
theorem State.sameJedec.eq {s t : State} (h : s.sameJedec t 3) : s.jedec = t.jedec :=
  Vector.ext fun j hj => h ⟨j, hj⟩ hj

/-! ### The transaction -/

section
variable {s t : State} (h : s.sameDescriptor t)
include h

theorem State.sameDescriptor.afterPay : s.afterPay = t.afterPay := by
  obtain ⟨-, -, -, -, hn, -, -⟩ := h
  simp only [State.afterPay, hn]

theorem State.sameDescriptor.afterAddr : s.afterAddr = t.afterAddr := by
  obtain ⟨-, -, -, hp, -, -, -⟩ := id h
  simp only [State.afterAddr, hp, h.afterPay]

theorem State.sameDescriptor.afterOp : s.afterOp = t.afterOp := by
  obtain ⟨-, ha, -, -, -, -, -⟩ := id h
  simp only [State.afterOp, ha, h.afterAddr]

end

/-- No response byte has been captured yet. -/
theorem State.sameCaptured_zero (s t : State) : s.sameCaptured t 0 := by
  unfold State.sameCaptured
  split <;> exact nofun

/-- Fewer response bytes agree too, and all of `buf` is as many as there are. -/
theorem State.sameCaptured.mono {s t : State} {m n : Nat} (h : s.sameCaptured t m) (hm : 0 < m) (hn : n ≤ m ∨ 256 ≤ m) :
    s.sameCaptured t n := by
  unfold State.sameCaptured at h ⊢
  split at h
  · exact fun j hj => h j (by omega)
  · exact fun j hj => h j (by omega)
  · exact fun _ => h hm

/-- A response byte captured by both machines joins those that agree. -/
theorem State.sameCaptured.capture {s t : State} {i : Fin 256} (h : s.sameCaptured t i.val) (hd : s.xdst = t.xdst) (v : Byte) :
    (s.capture i v).sameCaptured (t.capture i v) (i.val + 1) := by
  unfold State.sameCaptured at h ⊢
  rw [State.capture_xdst]
  cases hs : s.xdst with
  | buf =>
    rw [State.capture_buf_of hs, State.capture_buf_of (hd ▸ hs)]
    rw [hs] at h
    exact State.sameBuf.set i v fun j hj hne => h j (by have := Fin.val_ne_of_ne hne; omega)
  | jedec =>
    rw [State.capture_jedec_of hs, State.capture_jedec_of (hd ▸ hs)]
    rw [hs] at h
    exact State.sameJedec.set v h
  | sr =>
    rw [State.capture_sr_of hs, State.capture_sr_of (hd ▸ hs)]
    exact fun _ => rfl

/-- A byte captured by both machines leaves the agreeing bytes of `buf` in agreement. -/
theorem State.sameBuf.capture {s t : State} {n : Nat} (h : s.sameBuf t n) (hd : s.xdst = t.xdst) (i : Fin 256) (v : Byte) :
    (s.capture i v).sameBuf (t.capture i v) n := by
  cases hs : s.xdst with
  | buf =>
    rw [State.capture_buf_of hs, State.capture_buf_of (hd ▸ hs)]
    exact State.sameBuf.set i v fun j hj _ => h j hj
  | jedec =>
    rw [State.capture_jedec_of hs, State.capture_jedec_of (hd ▸ hs)]
    exact h
  | sr =>
    rw [State.capture_sr_of hs, State.capture_sr_of (hd ▸ hs)]
    exact h

theorem State.sameChunk.capture {s t : State} (h : s.sameChunk t) (i : Fin 256) (v w : Byte) :
    (s.capture i v).sameChunk (t.capture i w) := by
  simpa [State.sameChunk, State.sameTransfer] using h

theorem State.sameTransaction.capture {s t : State} (h : s.sameTransaction t) (i : Fin 256) (v : Byte) :
    (s.capture i v).sameTransaction (t.capture i v) := by
  obtain ⟨hd, hc⟩ := h
  obtain ⟨-, -, -, -, -, hdst, -⟩ := id hd
  refine ⟨by simpa [State.sameDescriptor] using hd, ?_⟩
  unfold State.sameCarried at hc ⊢
  rw [State.capture_xret, State.capture_chunk]
  split at hc
  · exact hc.capture i v v
  · exact ⟨hc.1.capture i v v, hc.2.capture hdst i v⟩
  · exact ⟨hc.1.capture i v v, hc.2.capture hdst i v⟩
  · trivial
  · trivial
  · trivial
  · exact hc.capture i v v
  · trivial

/-- The payload bytes of a transaction agree. -/
theorem State.sameTransaction.payload {s t : State} (h : s.sameTransaction t) (hs : s.descriptorOk) {i : Fin 256}
    (hi : i.val < s.xnpay.toNat) : s.buf[i.val] = t.buf[i.val] := by
  obtain ⟨hr, hn⟩ := hs.of_payload ((count_pos_iff _).1 (by omega))
  obtain ⟨-, hc⟩ := h
  simp only [State.sameCarried, hr] at hc
  exact hc.2 i (hn ▸ hi)

/-! ### The shared operations -/

/-- A Setup with the same arguments leaves the same descriptor, its free values being numbered by the history (log 16). -/
theorem State.setup_linked {s t : State} (h : s.agree t) {op : Byte} {a a' : Option BusAddr} {p p' r r' : Count} {d : Option Dst}
    {ret : Ret} (ha : a = a') (hp : p = p') (hr : r = r')
    (hc : (s.setup op a p r d ret).sameCarried (t.setup op a' p' r' d ret)) :
    (s.setup op a p r d ret).linked (t.setup op a' p' r' d ret) := by
  subst ha hp hr
  obtain ⟨-, -, -, -, -, -, -, hh⟩ := id h
  refine ⟨⟨rfl, h.2⟩, ⟨rfl, rfl, ?_, rfl, rfl, ?_, rfl⟩, hc⟩
  · exact congrArg (fun e : List Event => a.getD (Config.dashAddr e.length)) hh
  · exact congrArg (fun e : List Event => d.getD (dstOf (Config.dashDst e.length))) hh

section
variable {s t : State} (h : s.agree t)
include h

theorem State.setupRdid_linked : s.setupRdid.linked t.setupRdid := State.setup_linked h rfl rfl rfl trivial

theorem State.setupRead_linked (hc : s.sameChunk t) : s.setupRead.linked t.setupRead := by
  obtain ⟨⟨ha, -⟩, hn⟩ := id hc
  exact State.setup_linked h (congrArg (some ∘ busAddr) ha) rfl hn hc

theorem State.setupWren_linked {c : WriteClass} (hc : c = .w → s.sameChunk t ∧ s.sameBuf t s.chunk.toNat) :
    (s.setupWren c).linked (t.setupWren c) := by
  cases c with
  | w => exact State.setup_linked h rfl rfl rfl (hc rfl)
  | e => exact State.setup_linked h rfl rfl rfl trivial

theorem State.setupPp_linked (hc : s.sameChunk t) (hb : s.sameBuf t s.chunk.toNat) : s.setupPp.linked t.setupPp := by
  obtain ⟨⟨ha, -⟩, hn⟩ := id hc
  exact State.setup_linked h (congrArg (some ∘ busAddr) ha) hn rfl ⟨hc, hb⟩

theorem State.setupCe_linked : s.setupCe.linked t.setupCe := State.setup_linked h rfl rfl rfl trivial

theorem State.setupRdsr_linked {c : WriteClass} (hc : c = .w → s.sameChunk t) : (s.setupRdsr c).linked (t.setupRdsr c) := by
  cases c with
  | w => exact State.setup_linked h rfl rfl rfl (hc rfl)
  | e => exact State.setup_linked h rfl rfl rfl trivial

/-- The loop head reads `rem` alone, and a Read's Setup `addr` (R146). -/
theorem State.loopHead_linked (hx : s.sameTransfer t) (c : Transfer) : (s.loopHead c).linked (t.loopHead c) := by
  obtain ⟨-, hr⟩ := id hx
  have hc : (s.setChunk (chunkOf s.rem)).sameChunk (t.setChunk (chunkOf t.rem)) := ⟨hx, congrArg chunkOf hr⟩
  by_cases h0 : s.rem = 0
  · rw [State.loopHead_done c h0, State.loopHead_done c (hr ▸ h0)]
    cases c <;> exact ⟨h.goto _, trivial⟩
  · cases c with
    | r =>
      rw [State.loopHead_read h0, State.loopHead_read (hr ▸ h0)]
      exact State.setupRead_linked (s := s.setChunk _) (t := t.setChunk _) h hc
    | w =>
      rw [State.loopHead_write h0, State.loopHead_write (hr ▸ h0)]
      exact ⟨h.goto (.wIn 0), hc, nofun⟩

theorem State.advance_linked (hc : s.sameChunk t) (c : Transfer) : (s.advance c).linked (t.advance c) := by
  obtain ⟨⟨ha, hr⟩, hn⟩ := hc
  refine State.loopHead_linked ?_ ⟨?_, ?_⟩ c
  · exact h
  · simp [ha, hn]
  · simp [hr, hn]

theorem State.pollDone_linked {c : WriteClass} (hsr : s.sr = t.sr) (hc : c = .w → s.sameChunk t) :
    (s.pollDone c).linked (t.pollDone c) := by
  have hf : s.busyFlag = t.busyFlag := congrArg writeInProgress hsr
  cases hb : s.busyFlag with
  | true =>
    rw [State.pollDone_busy c hb, State.pollDone_busy c (hf ▸ hb)]
    cases c with
    | w => exact ⟨h.goto _, hc rfl⟩
    | e => exact ⟨h.goto _, trivial⟩
  | false =>
    cases c with
    | w =>
      rw [State.pollDone_write hb, State.pollDone_write (hf ▸ hb)]
      exact State.advance_linked h (hc rfl) .w
    | e =>
      rw [State.pollDone_erase hb, State.pollDone_erase (hf ▸ hb)]
      exact ⟨h.goto _, trivial⟩

/-- The continuation reads what the transaction carried and captured (R33). -/
theorem State.continueAt_linked (ok : s.descriptorOk) (hx : s.sameTransaction t) (hcap : s.sameCaptured t s.xnresp.toNat) :
    s.continueAt.linked t.continueAt := by
  obtain ⟨⟨-, -, -, -, -, -, hret⟩, hc⟩ := hx
  simp only [State.continueAt, ← hret]
  cases hr : s.xret with simp only [State.sameCarried, hr] at hc
  | rdDone =>
    obtain ⟨hd, hn, -⟩ := ok.of_rdDone hr
    simp only [State.sameCaptured, hd, hn] at hcap
    exact ⟨h.goto _, hc, hcap⟩
  | wWrenDone => exact ⟨h.goto _, hc⟩
  | wPpDone => exact State.setupRdsr_linked h fun _ => hc.1
  | eWrenDone => exact ⟨h.goto _, trivial⟩
  | eCeDone => exact State.setupRdsr_linked h nofun
  | dIdDone =>
    obtain ⟨hd, hn⟩ := ok.of_dIdDone hr
    simp only [State.sameCaptured, hd, hn] at hcap
    have hj : s.jedec = t.jedec := State.sameJedec.eq hcap
    refine ⟨State.agree.goto (s := s.setCap _) (t := t.setCap _) h _, hj, ?_⟩
    simp only [State.goto_cap, State.setCap_cap, hj]
  | pollDone c =>
    obtain ⟨hd, hn⟩ := ok.of_pollDone hr
    simp only [State.sameCaptured, hd, hn] at hcap
    refine State.pollDone_linked h (hcap (by decide)) fun hw => ?_
    subst hw
    exact hc

end

end Sys2Proof.Machine
end

section
/-! PROOFS. Stale registers (R39), the steps: the event of every phase keeps `State.linked`, so two machines that start in IDLE
with the same surroundings look alike for ever. -/

namespace Sys2Proof.Machine

/-! ### The phases of a transaction -/

section
variable {s t : State} (h : s.agree t) (hx : s.sameTransaction t)
include h hx

theorem State.goto_afterPay_linked : (s.goto s.afterPay).linked (t.goto s.afterPay) := by
  refine ⟨h.goto _, ?_⟩
  unfold State.afterPay
  split
  · exact ⟨hx, State.sameCaptured_zero _ _⟩
  · have h0 : s.xnresp.toNat = 0 := by omega
    exact ⟨hx, h0 ▸ State.sameCaptured_zero _ _⟩

theorem State.goto_afterAddr_linked : (s.goto s.afterAddr).linked (t.goto s.afterAddr) := by
  unfold State.afterAddr
  split
  · exact ⟨h.goto _, hx⟩
  · exact State.goto_afterPay_linked h hx

theorem State.evCsOn_linked : s.evCsOn.linked t.evCsOn := ⟨h.csAssert.goto _, hx⟩

theorem State.evOp_linked : s.evOp.linked t.evOp := by
  have hu : (s.xfer s.xop).agree (t.xfer s.xop) := h.xfer _
  obtain ⟨ho, -⟩ := hx.1
  unfold State.evOp
  rw [← ho, ← hx.1.afterOp]
  unfold State.afterOp
  split
  · exact ⟨hu.goto _, hx⟩
  · exact State.goto_afterAddr_linked hu hx

theorem State.evAddr_linked (k : Fin 3) : (s.evAddr k).linked (t.evAddr k) := by
  obtain ⟨-, -, ha, -⟩ := hx.1
  have hu := h.xfer (beByte24 s.xaddr k.val)
  unfold State.evAddr
  rw [← ha, ← hx.1.afterAddr]
  cases nextIndex k 3 with
  | some k' => exact ⟨hu.goto _, hx⟩
  | none => exact State.goto_afterAddr_linked hu hx

theorem State.evPay_linked (ok : s.descriptorOk) {i : Fin 256} (hi : i.val < s.xnpay.toNat) :
    (s.evPay i).linked (t.evPay i) := by
  have hb := hx.payload ok hi
  obtain ⟨-, -, -, hn, -⟩ := hx.1
  have hu := h.xfer s.buf[i.val]
  unfold State.evPay
  rw [← hb, ← hn, ← hx.1.afterPay]
  cases nextIndex i s.xnpay.toNat with
  | some i' => exact ⟨hu.goto _, hx⟩
  | none => exact State.goto_afterPay_linked hu hx

theorem State.evResp_linked {i : Fin 256} (hc : s.sameCaptured t i.val) : (s.evResp i).linked (t.evResp i) := by
  obtain ⟨-, -, -, -, hn, hd, -⟩ := hx.1
  have hu := (h.xfer 0x00#8).capture i (s.answer 0x00#8) (s.answer 0x00#8)
  have hx' := State.sameTransaction.capture (s := s.xfer 0x00#8) (t := t.xfer 0x00#8) hx i (s.answer 0x00#8)
  have hc' := State.sameCaptured.capture (s := s.xfer 0x00#8) (t := t.xfer 0x00#8) hc hd (s.answer 0x00#8)
  unfold State.evResp
  rw [← h.answer, ← hn]
  cases hi : nextIndex i s.xnresp.toNat with
  | some i' =>
    obtain ⟨hj, -⟩ := nextIndex_some hi
    exact ⟨hu.goto _, hx', hj ▸ hc'⟩
  | none =>
    refine ⟨hu.goto _, hx', hc'.mono (Nat.succ_pos _) ?_⟩
    simpa using nextIndex_none hi

theorem State.evCsOff_linked (ok : s.descriptorOk) (hc : s.sameCaptured t s.xnresp.toNat) : s.evCsOff.linked t.evCsOff :=
  State.continueAt_linked (s := s.csDeassert) (t := t.csDeassert) h.csDeassert ok hx hc

end

/-! ### The phases of the commands -/

section
variable {s t : State} (h : s.linked t)
include h

/-- Two machines that wait for a byte take the same one, or wait on. -/
theorem State.rxByte_linked {k : Byte → State → State}
    (hk : ∀ b q, (k b ((s.setRxq q).log (.rx b))).linked (k b ((t.setRxq q).log (.rx b)))) :
    (s.rxByte k).linked (t.rxByte k) := by
  obtain ⟨-, -, -, -, hq, -⟩ := h.1
  cases hs : s.rxq with
  | nil => rwa [State.rxByte_nil hs, State.rxByte_nil (hq ▸ hs)]
  | cons b q => rw [State.rxByte_cons hs, State.rxByte_cons (hq ▸ hs)]; exact hk b q

/-- Two machines that offer the same byte send it together, or offer it on. -/
theorem State.txByte_linked {v w : Byte} {k : State → State} (hv : v = w)
    (hk : (k (s.log (.tx v))).linked (k (t.log (.tx v)))) : (s.txByte v k).linked (t.txByte w k) := by
  subst hv
  obtain ⟨-, -, -, ht, -⟩ := h.1
  cases hs : s.txReady with
  | true => rwa [State.txByte_ready hs, State.txByte_ready (ht ▸ hs)]
  | false => rwa [State.txByte_blocked hs, State.txByte_blocked (ht ▸ hs)]

theorem State.evParam_linked {k : Fin 8} (hk : s.sameParams t k.val) (c : Transfer) : (s.evParam c k).linked (t.evParam c k) := by
  refine State.rxByte_linked h fun b q => ?_
  have hu := State.storeParam_agree ((h.1.setRxq q).log (.rx b)) k b
  have hp := State.sameParams.store (s := (s.setRxq q).log (.rx b)) (t := (t.setRxq q).log (.rx b)) hk b
  dsimp only
  cases hi : nextIndex k 8 with
  | some k' =>
    obtain ⟨hj, -⟩ := nextIndex_some hi
    rw [← hj] at hp
    exact ⟨hu.goto _, hp⟩
  | none =>
    have h8 : k.val + 1 = 8 := by have := nextIndex_none hi; omega
    rw [h8] at hp
    exact ⟨hu.goto _, hp.transfer⟩

theorem State.evAck1_linked (hx : s.sameTransfer t) (c : Transfer) : (s.evAck1 c).linked (t.evAck1 c) :=
  State.txByte_linked h rfl (State.loopHead_linked (h.1.log _) hx c)

theorem State.evROut_linked (hc : s.sameChunk t) (hb : s.sameBuf t s.chunk.toNat) {i : Fin 256} (hi : i.val < s.chunk.toNat) :
    (s.evROut i).linked (t.evROut i) := by
  refine State.txByte_linked h (hb i hi) ?_
  have hu := h.1.log (.tx s.buf[i.val])
  simp only [State.log_chunk, ← hc.2]
  cases nextIndex i s.chunk.toNat with
  | some i' => exact ⟨hu.goto _, hc, hb⟩
  | none => exact State.advance_linked hu hc .r

theorem State.evWIn_linked (hc : s.sameChunk t) {i : Fin 256} (hb : s.sameBuf t i.val) : (s.evWIn i).linked (t.evWIn i) := by
  refine State.rxByte_linked h fun b q => ?_
  have hu : (((s.setRxq q).log (.rx b)).setBuf i b).agree (((t.setRxq q).log (.rx b)).setBuf i b) := (h.1.setRxq q).log _
  have hb' : (((s.setRxq q).log (.rx b)).setBuf i b).sameBuf (((t.setRxq q).log (.rx b)).setBuf i b) (i.val + 1) :=
    State.sameBuf.set i b fun j hj hne => hb j (by have := Fin.val_ne_of_ne hne; omega)
  simp only [State.setBuf_chunk, State.log_chunk, State.setRxq_chunk, ← hc.2]
  cases hi : nextIndex i s.chunk.toNat with
  | some i' =>
    obtain ⟨hj, -⟩ := nextIndex_some hi
    exact ⟨hu.goto _, hc, hj ▸ hb'⟩
  | none =>
    refine State.setupWren_linked hu fun _ => ⟨hc, fun j hj => hb' j ?_⟩
    have := nextIndex_none hi
    simp only [State.setBuf_chunk, State.log_chunk, State.setRxq_chunk] at hj
    omega

theorem State.evFinalAck_linked : s.evFinalAck.linked t.evFinalAck := State.txByte_linked h rfl ⟨(h.1.log _).goto _, trivial⟩

theorem State.evDOut_linked (hj : s.jedec = t.jedec) (hc : s.cap = t.cap) (k : Fin 7) : (s.evDOut k).linked (t.evDOut k) := by
  have hv : s.detectByte k = t.detectByte k := by simp only [State.detectByte, hj, hc]
  refine State.txByte_linked h hv ?_
  cases nextIndex k 7 with
  | some k' => exact ⟨(h.1.log _).goto _, hj, hc⟩
  | none => exact ⟨(h.1.log _).goto _, trivial⟩

end

/-- The dispatcher reads the tag alone (R120): no register matters to it. -/
theorem State.dispatched_linked {s t : State} (h : s.agree t) (i : Instr) : (s.dispatched i).linked (t.dispatched i) := by
  cases i with
  | read => exact ⟨h.goto _, nofun⟩
  | write => exact ⟨h.goto _, nofun⟩
  | erase => exact State.setupWren_linked h nofun
  | detect => exact State.setupRdid_linked h
  | _ => exact ⟨h.goto _, trivial⟩

/-! ### The step -/

/-- Linked machines in which the registers are what the phase says. -/
structure State.alike (s t : State) : Prop where
  linked : s.linked t
  left : s.phaseOk
  right : t.phaseOk

/-- The event of the phase keeps two machines linked. -/
theorem State.alike.afterEvent_linked {s t : State} (h : s.alike t) : s.afterEvent.linked t.afterEvent := by
  obtain ⟨hl, ok, -⟩ := h
  obtain ⟨ha, hk⟩ := id hl
  have hq : s.phase = t.phase := ha.1
  cases hp : s.phase <;> rw [hp] at hq <;> simp only [State.phaseOk, hp] at ok <;> simp only [State.known, hp] at hk <;>
    simp only [State.afterEvent, hp, ← hq]
  case idle =>
    obtain ⟨-, -, -, -, hrx, -⟩ := id ha
    rw [← hrx]
    cases s.rxq with
    | nil => exact hl
    | cons b q => exact State.dispatched_linked ((ha.setRxq q).log _) _
  case param c k => exact State.evParam_linked hl hk c
  case ack1 c => exact State.evAck1_linked hl hk c
  case rOut i => exact State.evROut_linked hl hk.1 hk.2 ok.2
  case wIn i => exact State.evWIn_linked hl hk.1 hk.2
  case gap c =>
    cases c with
    | w => exact State.setupPp_linked (ha.log _) hk.1 hk.2
    | e => exact State.setupCe_linked (ha.log _)
  case pollWait c =>
    cases c with
    | w => exact State.setupRdsr_linked (ha.log _) fun _ => hk
    | e => exact State.setupRdsr_linked (ha.log _) nofun
  case ack2 => exact State.evFinalAck_linked hl
  case eAck => exact State.evFinalAck_linked hl
  case dOut k => exact State.evDOut_linked hl hk.1 hk.2 k
  case xCsOn => exact State.evCsOn_linked ha hk
  case xOp => exact State.evOp_linked ha hk
  case xAddr k => exact State.evAddr_linked ha hk k
  case xPay i => exact State.evPay_linked ha hk ok.1 ok.2
  case xResp i => exact State.evResp_linked ha hk.1 hk.2
  case xCsOff => exact State.evCsOff_linked ha hk.1 ok hk.2

theorem State.alike.afterEvent {s t : State} (h : s.alike t) : s.afterEvent.alike t.afterEvent :=
  ⟨h.afterEvent_linked, State.afterEvent_phaseOk h.left, State.afterEvent_phaseOk h.right⟩

/-- A reset leaves the same registers in both machines. -/
theorem State.agree.resetStep {s t : State} (h : s.agree t) : s.resetStep.alike t.resetStep := by
  obtain ⟨-, hc, hr, ht, hq, hi, hch, hh⟩ := h
  have he : s.resetStep = t.resetStep := by simp only [State.resetStep, hc, hr, ht, hq, hi, hch, hh]
  rw [he]
  exact ⟨⟨⟨rfl, rfl, rfl, rfl, rfl, rfl, rfl, rfl⟩, trivial⟩, State.resetStep_phaseOk t, State.resetStep_phaseOk t⟩

/-- The host delivers to both machines alike, or overruns both. -/
theorem State.alike.deliver {s t : State} (h : s.alike t) (bs : List Byte) : Option.Rel State.alike (s.deliver bs) (t.deliver bs) := by
  induction bs generalizing s t with
  | nil => exact .some h
  | cons b bs ih =>
    obtain ⟨⟨ha, hk⟩, hs, ht⟩ := h
    obtain ⟨-, -, -, -, hq, -⟩ := id ha
    simp only [State.deliver, ← hq]
    split
    · exact ih ⟨⟨ha.setRxq _, hk⟩, hs, ht⟩
    · exact .none

theorem State.alike.latch {s t : State} (h : s.alike t) : Option.Rel State.alike s.latch t.latch := by
  obtain ⟨⟨ha, hk⟩, hs, ht⟩ := id h
  obtain ⟨-, -, -, -, -, hi, -⟩ := id ha
  simp only [State.latch, ← hi]
  cases s.inputs with
  | nil => exact .some h
  | cons x rest => exact State.alike.deliver ⟨⟨ha.setPorts x rest, hk⟩, hs, ht⟩ _

/-- Two outcomes are alike: alike next states, or the same fault. -/
inductive AlikeOutcomes : Out → Out → Prop
  | next {s t : State} (h : s.alike t) : AlikeOutcomes (.next s) (.next t)
  | fault (f : Fault) : AlikeOutcomes (.fault f) (.fault f)

theorem State.alike.act {s t : State} (h : s.alike t) : AlikeOutcomes s.act t.act := by
  obtain ⟨-, -, hr, -⟩ := h.linked.1
  cases hs : s.rst with
  | true =>
    simp only [State.act, ← hr, hs, if_true]
    exact .next h.linked.1.resetStep
  | false =>
    rw [State.act_eq hs (State.fetch_ne_noOpcode h.left), State.act_eq (hr ▸ hs) (State.fetch_ne_noOpcode h.right)]
    exact .next h.afterEvent

theorem State.alike.step_alike {s t : State} (h : s.alike t) : AlikeOutcomes (step s) (step t) := by
  have hl := h.latch
  unfold step
  generalize s.latch = o, t.latch = p at hl
  cases hl with
  | some hu => exact hu.act
  | none => exact .fault .rxOverrun

theorem State.alike.run_alike {s t : State} (h : s.alike t) (n : Nat) : AlikeOutcomes (run n s) (run n t) := by
  induction n generalizing s t with
  | zero => exact .next h
  | succ n ih =>
    rw [run_succ, run_succ]
    have hs := h.step_alike
    generalize step s = o, step t = p at hs
    cases hs with
    | next hu => exact ih hu
    | fault f => exact .fault f

/-! ### What is seen -/

/-- Machines that are alike offer the same byte. -/
theorem State.alike.offered {s t : State} (h : s.alike t) : s.offered = t.offered := by
  obtain ⟨⟨ha, hk⟩, ok, -⟩ := h
  have hq : s.phase = t.phase := ha.1
  unfold State.offered
  rw [← hq]
  cases hp : s.phase with
  | rOut i =>
    simp only [State.known, State.phaseOk, hp] at hk ok
    exact congrArg some (hk.2 i ok.2)
  | dOut k =>
    simp only [State.known, hp] at hk
    simp only [State.detectByte, hk.1, hk.2]
  | ack1 c => cases c <;> rfl
  | _ => rfl

theorem State.alike.ports {s t : State} (h : s.alike t) : s.ports = t.ports := by
  obtain ⟨hp, hc, hr, -, hq, -, -, hh⟩ := h.linked.1
  simp only [State.ports, h.offered, hp, hc, hr, hq, hh]

theorem AlikeOutcomes.sameOutside {o p : Out} (h : AlikeOutcomes o p) : sameOutside o p := by
  cases h with
  | next hu => exact ⟨hu.linked.1, hu.ports⟩
  | fault f => rfl

/-- In IDLE no register is read, so machines that look alike are alike (R39). -/
theorem State.alike_of_idle {s t : State} (hp : s.phase = .idle) (h : s.agree t) : s.alike t := by
  refine ⟨⟨h, ?_⟩, ?_, ?_⟩
  · simp only [State.known, hp]
  · simp only [State.phaseOk, hp]
  · simp only [State.phaseOk, ← h.1, hp]

/-- Settles O47: `State.alike` holds in IDLE, every step keeps it, and it fixes everything seen from outside. -/
theorem staleRegistersAreNeverSeen : Obligations.StaleRegistersAreNeverSeen :=
  fun _ _ n hp h => ((State.alike_of_idle hp h).run_alike n).sameOutside

end Sys2Proof.Machine
end

section
/-! PROOFS. The dispatcher (R120, R121, R128): in IDLE the byte at the head of the queue is taken and the command of its tag
started. -/

namespace Sys2Proof.Machine

/-- The bytes that are no tag are those other than the four (R91, R128). -/
theorem isCommandTag_eq_false_iff {t : Byte} :
    isCommandTag t = false ↔ t ≠ 0x52#8 ∧ t ≠ 0x57#8 ∧ t ≠ 0x45#8 ∧ t ≠ 0x44#8 := by
  simp [isCommandTag, and_assoc]

theorem decodeTag_of_not_tag {t : Byte} (h : isCommandTag t = false) : decodeTag t = .unknown t := by
  obtain ⟨hR, hW, hE, hD⟩ := isCommandTag_eq_false_iff.mp h
  simp [decodeTag, hR, hW, hE, hD]

/-- In IDLE the instruction of the byte at the head of the queue takes that byte and starts (R121). -/
theorem exec_of_idle {s : State} {b : Byte} {q : List Byte} (hp : s.phase = .idle) (hq : s.rxq = b :: q) :
    exec (decodeTag b) s = .next (((s.setRxq q).log (.rx b)).dispatched (decodeTag b)) := by
  have hf : s.fetch = .instr (decodeTag b) := by simp only [State.fetch, hp, hq]
  rw [exec_fetched hf]
  simp only [State.afterEvent, hp, hq]

/-- In IDLE a byte that is no tag is taken, and the block goes to IDLE (R121). -/
theorem exec_unknown_of_idle {s : State} {t : Byte} {q : List Byte} (hp : s.phase = .idle) (hq : s.rxq = t :: q)
    (ht : isCommandTag t = false) : exec (.unknown t) s = .next (((s.setRxq q).log (.rx t)).goto .idle) := by
  have h := exec_of_idle hp hq
  rwa [decodeTag_of_not_tag ht] at h

/-- Going to the phase the block is in changes nothing. -/
theorem State.goto_eq_self {s : State} {p : Phase} (h : s.phase = p) : s.goto p = s := by
  subst h
  rfl

/-- Settles O17: each tag decodes to its instruction, which `exec_of_idle` starts. The free values are those that Setup writes for
its `-` arguments. -/
theorem dispatchStartsTheCommand : Obligations.DispatchStartsTheCommand := by
  intro s q hp
  refine ⟨?read, ?write, ?erase, ?detect, ?unknown⟩
  case read => exact fun hq => exec_of_idle hp hq
  case write => exact fun hq => exec_of_idle hp hq
  case erase => exact fun hq => ⟨_, _, exec_of_idle hp hq⟩
  case detect => exact fun hq => ⟨_, exec_of_idle hp hq⟩
  case unknown => exact fun t ht hq => exec_unknown_of_idle hp hq ht

/-- Settles O18: the byte is taken, and IDLE, where the block goes, is where it was. -/
theorem unknownTagIsDiscarded : Obligations.UnknownTagIsDiscarded := by
  intro s t q hp hq hR hW hE hD
  have ht : isCommandTag t = false := isCommandTag_eq_false_iff.mpr ⟨hR, hW, hE, hD⟩
  have hi : ((s.setRxq q).log (.rx t)).phase = .idle := hp
  rw [exec_unknown_of_idle hp hq ht, State.goto_eq_self hi]
  rfl

end Sys2Proof.Machine
end

section
/-! PROOFS. The capacity (R164): the third byte's, or the second byte's where the third gives 0 and the manufacturer is 0xEF. -/

namespace Sys2Proof.Machine

theorem decodeCapacity_of_fallback {j0 j1 j2 : Byte} (h : capOf j2 = 0 ∧ j0 = Config.efManufacturer) :
    decodeCapacity j0 j1 j2 = capOf j1 :=
  if_pos h

theorem decodeCapacity_of_no_fallback {j0 j1 j2 : Byte} (h : ¬ (capOf j2 = 0 ∧ j0 = Config.efManufacturer)) :
    decodeCapacity j0 j1 j2 = capOf j2 :=
  if_neg h

/-- Settles O55: there is no fallback where the third byte gives a capacity, nor for another manufacturer, whose third byte's 0 then
stands. -/
theorem capacityFallsBackForOneManufacturer : Obligations.CapacityFallsBackForOneManufacturer := by
  intro j0 j1 j2
  refine ⟨?thirdByte, ?fallback, ?otherManufacturer⟩
  case thirdByte => exact fun h2 => decodeCapacity_of_no_fallback fun h => h2 h.1
  case fallback => exact fun h2 h0 => decodeCapacity_of_fallback ⟨h2, h0⟩
  case otherManufacturer => exact fun h2 h0 => (decodeCapacity_of_no_fallback fun h => h0 h.2).trans h2

end Sys2Proof.Machine
end

section
/-! PROOFS. The bytes a command exchanges with the host (R206, R211, R213, R217, R221): the event of each such phase where it is not
blocked, one equation per case. -/

namespace Sys2Proof.Machine

/-! ### Read's chunk (R206) -/

theorem exec_read_of_rOut {s : State} {i : Fin 256} (hp : s.phase = .rOut i) : exec .read s = .next (s.evROut i) := by
  simp only [exec, execRead, hp]

theorem State.evROut_inner {s : State} {i : Fin 256} (ht : s.txReady = true) (hi : i.val + 1 < 256)
    (hc : i.val + 1 < s.chunk.toNat) : s.evROut i = (s.log (.tx s.buf[i.val])).goto (.rOut ⟨i.val + 1, hi⟩) := by
  unfold State.evROut
  rw [State.txByte_ready ht]
  simp only [State.log_chunk, nextIndex_of_lt hi hc]

theorem State.evROut_last {s : State} {i : Fin 256} (ht : s.txReady = true) (hc : s.chunk.toNat ≤ i.val + 1) :
    s.evROut i = (s.log (.tx s.buf[i.val])).advance .r := by
  unfold State.evROut
  rw [State.txByte_ready ht]
  simp only [State.log_chunk, nextIndex_last hc]

/-! ### Write's chunk (R211) -/

theorem exec_write_of_wIn {s : State} {i : Fin 256} (hp : s.phase = .wIn i) : exec .write s = .next (s.evWIn i) := by
  simp only [exec, execWrite, hp]

theorem State.evWIn_inner {s : State} {i : Fin 256} {b : Byte} {q : List Byte} (hq : s.rxq = b :: q) (hi : i.val + 1 < 256)
    (hc : i.val + 1 < s.chunk.toNat) :
    s.evWIn i = (((s.setRxq q).log (.rx b)).setBuf i b).goto (.wIn ⟨i.val + 1, hi⟩) := by
  unfold State.evWIn
  rw [State.rxByte_cons hq]
  simp only [State.setBuf_chunk, State.log_chunk, State.setRxq_chunk, nextIndex_of_lt hi hc]

theorem State.evWIn_last {s : State} {i : Fin 256} {b : Byte} {q : List Byte} (hq : s.rxq = b :: q)
    (hc : s.chunk.toNat ≤ i.val + 1) : s.evWIn i = (((s.setRxq q).log (.rx b)).setBuf i b).setupWren .w := by
  unfold State.evWIn
  rw [State.rxByte_cons hq]
  simp only [State.setBuf_chunk, State.log_chunk, State.setRxq_chunk, nextIndex_last hc]

/-- Settles O26: an inner byte has a next index inside the chunk, the last has none. The free values are those that Setup writes for
its `-` arguments. -/
theorem payloadByteComesIn : Obligations.PayloadByteComesIn := by
  intro s i b q hp hq hmax
  rw [exec_write_of_wIn hp]
  refine ⟨?inner, ?last⟩
  case inner => exact fun hc => ⟨by omega, congrArg Host.Outcome.next (State.evWIn_inner hq _ hc)⟩
  case last => exact fun hc => ⟨_, _, congrArg Host.Outcome.next (State.evWIn_last hq hc)⟩

/-! ### The acknowledgements of Write and Erase (R213, R217) -/

theorem exec_write_of_ack2 {s : State} (hp : s.phase = .ack2) : exec .write s = .next s.evFinalAck := by
  simp only [exec, execWrite, hp]

theorem exec_erase_of_eAck {s : State} (hp : s.phase = .eAck) : exec .erase s = .next s.evFinalAck := by
  simp only [exec, execErase, hp]

theorem State.evFinalAck_ready {s : State} (ht : s.txReady = true) : s.evFinalAck = (s.log (.tx 0xAA#8)).goto .idle :=
  State.txByte_ready ht

/-! ### Detect's response (R221) -/

theorem exec_detect_of_dOut {s : State} {k : Fin 7} (hp : s.phase = .dOut k) : exec .detect s = .next (s.evDOut k) := by
  simp only [exec, execDetect, hp]

theorem State.detectByte_jedec (s : State) {k : Fin 7} (h : k.val ≤ 2) : s.detectByte k = s.jedec[k.val] :=
  dif_pos (Nat.lt_succ_of_le h)

theorem State.detectByte_cap (s : State) {k : Fin 7} (h : 3 ≤ k.val) : s.detectByte k = byteOf s.cap (k.val - 3) :=
  dif_neg (Nat.not_lt.mpr h)

theorem State.evDOut_ready {s : State} (ht : s.txReady = true) (k : Fin 7) :
    s.evDOut k = (s.log (.tx (s.detectByte k))).goto (if h : k.val < 6 then .dOut ⟨k.val + 1, by omega⟩ else .idle) := by
  unfold State.evDOut
  rw [State.txByte_ready ht]
  by_cases hk : k.val < 6
  · have hi : k.val + 1 < 7 := by omega
    simp only [nextIndex_of_lt hi hi, dif_pos hk]
  · have hi : 7 ≤ k.val + 1 := by omega
    simp only [nextIndex_end hi, dif_neg hk]

/-- Settles O30: the byte is `State.detectByte`, which is one of `jedec` or of `cap`. -/
theorem detectByteGoesOut : Obligations.DetectByteGoesOut := by
  intro s k hp ht
  refine ⟨s.detectByte k, fun h => s.detectByte_jedec h, fun h => s.detectByte_cap h, ?_⟩
  rw [exec_detect_of_dOut hp, State.evDOut_ready ht]
  rfl

end Sys2Proof.Machine
end

section
/-! PROOFS. Where the phases that answer the host are entered (R206, R213, R217): of each event, which of `R_OUT`, `ACK2` and `E_ACK`
it can lead to. -/

namespace Sys2Proof.Machine

/-- The release of a poll for the command `c` that read bit 0 clear (R232). -/
def State.pollReadClear (s : State) (c : WriteClass) : Prop :=
  s.phase = .xCsOff ∧ s.xret = .pollDone c ∧ s.sr.getLsbD 0 = false

/-- Where `t`, the state after an event of `s`, is in `R_OUT`, `ACK2` or `E_ACK`: `s` was in that phase already, or has just completed
what the phase answers: the chunk's Read Data transaction, the whole Write, the Erase. -/
def State.leadsTo (s t : State) : Prop :=
  match t.phase with
  | .rOut j => (∃ i, s.phase = .rOut i) ∨ (s.phase = .xCsOff ∧ s.xret = .rdDone ∧ j = 0)
  | .ack2 => s.phase = .ack2 ∨ (t.rem = 0 ∧ (s.phase = .ack1 .w ∨ s.pollReadClear .w))
  | .eAck => s.phase = .eAck ∨ s.pollReadClear .e
  | _ => True

/-! ### Blocked events, and events that end on the bus -/

theorem State.leadsTo_self (s : State) : s.leadsTo s := by
  unfold State.leadsTo
  cases hp : s.phase with
  | rOut i => exact .inl ⟨i, rfl⟩
  | ack2 => exact .inl rfl
  | eAck => exact .inl rfl
  | _ => trivial

/-- No phase of a transaction answers the host. -/
theorem State.leadsTo_of_onBus (s : State) {t : State} (h : t.phase.onBus = true) : s.leadsTo t := by
  unfold State.leadsTo
  cases hp : t.phase with
  | rOut i | ack2 | eAck => rw [hp] at h; exact absurd h Bool.false_ne_true
  | _ => trivial

theorem State.afterPay_onBus (s : State) : s.afterPay.onBus = true := by
  unfold State.afterPay
  split <;> rfl

theorem State.afterAddr_onBus (s : State) : s.afterAddr.onBus = true := by
  unfold State.afterAddr
  split
  · rfl
  · exact s.afterPay_onBus

theorem State.afterOp_onBus (s : State) : s.afterOp.onBus = true := by
  unfold State.afterOp
  split
  · rfl
  · exact s.afterAddr_onBus

theorem State.evAddr_onBus (s : State) (k : Fin 3) : (s.evAddr k).phase.onBus = true := by
  unfold State.evAddr
  cases nextIndex k 3 with
  | some k' => rfl
  | none => exact s.afterAddr_onBus

theorem State.evPay_onBus (s : State) (i : Fin 256) : (s.evPay i).phase.onBus = true := by
  unfold State.evPay
  cases nextIndex i s.xnpay.toNat with
  | some i' => rfl
  | none => exact s.afterPay_onBus

theorem State.evResp_onBus (s : State) (i : Fin 256) : (s.evResp i).phase.onBus = true := by
  unfold State.evResp
  cases nextIndex i s.xnresp.toNat <;> rfl

/-! ### The loop, the poll and the continuations -/

/-- Read's loop head leads to IDLE or to a transaction. -/
theorem State.loopHead_read_leadsTo (s u : State) : s.leadsTo (u.loopHead .r) := by
  by_cases hr : u.rem = 0
  · rw [State.loopHead_done .r hr]; trivial
  · rw [State.loopHead_read hr]; trivial

/-- Write's loop head leads to `ACK2` only where nothing remains. -/
theorem State.loopHead_write_leadsTo {s : State} (u : State) (h : s.phase = .ack1 .w ∨ s.pollReadClear .w) :
    s.leadsTo (u.loopHead .w) := by
  by_cases hr : u.rem = 0
  · rw [State.loopHead_done .w hr]; exact .inr ⟨hr, h⟩
  · rw [State.loopHead_write hr]; trivial

theorem State.pollDone_leadsTo {s u : State} {c : WriteClass} (hp : s.phase = .xCsOff) (hr : s.xret = .pollDone c)
    (hs : u.sr = s.sr) : s.leadsTo (u.pollDone c) := by
  cases hb : u.busyFlag with
  | true => rw [State.pollDone_busy c hb]; trivial
  | false =>
    have hclear : s.pollReadClear c := ⟨hp, hr, hs ▸ hb⟩
    cases c with
    | w => rw [State.pollDone_write hb]; exact State.loopHead_write_leadsTo _ (.inr hclear)
    | e => rw [State.pollDone_erase hb]; exact .inr hclear

theorem State.evCsOff_leadsTo {s : State} (hp : s.phase = .xCsOff) : s.leadsTo s.evCsOff := by
  unfold State.evCsOff State.continueAt
  cases hr : s.xret <;> simp only [State.csDeassert_xret, hr]
  case rdDone => exact .inr ⟨hp, hr, rfl⟩
  case pollDone c => exact State.pollDone_leadsTo hp hr rfl
  all_goals trivial

/-! ### Every event -/

/-- The event of the phase enters `R_OUT`, `ACK2` and `E_ACK` only where what they answer is complete. -/
theorem State.leadsTo_afterEvent (s : State) : s.leadsTo s.afterEvent := by
  cases hp : s.phase <;> simp only [State.afterEvent, hp]
  case idle =>
    cases s.rxq with
    | nil => exact s.leadsTo_self
    | cons b q => dsimp only; cases decodeTag b <;> trivial
  case param c k =>
    refine State.rxByte_keeps s.leadsTo_self fun b q => ?_
    dsimp only
    cases nextIndex k 8 <;> trivial
  case ack1 c =>
    refine State.txByte_keeps s.leadsTo_self ?_
    cases c with
    | r => exact State.loopHead_read_leadsTo _ _
    | w => exact State.loopHead_write_leadsTo _ (.inl hp)
  case rOut i =>
    refine State.txByte_keeps s.leadsTo_self ?_
    split
    · exact .inl ⟨i, hp⟩
    · exact State.loopHead_read_leadsTo _ _
  case wIn i =>
    refine State.rxByte_keeps s.leadsTo_self fun b q => ?_
    dsimp only
    split <;> trivial
  case gap c => cases c <;> trivial
  case pollWait c => trivial
  case ack2 => exact State.txByte_keeps s.leadsTo_self trivial
  case eAck => exact State.txByte_keeps s.leadsTo_self trivial
  case dOut k =>
    refine State.txByte_keeps s.leadsTo_self ?_
    split <;> trivial
  case xCsOn => trivial
  case xOp => exact s.leadsTo_of_onBus s.afterOp_onBus
  case xAddr k => exact s.leadsTo_of_onBus (s.evAddr_onBus k)
  case xPay i => exact s.leadsTo_of_onBus (s.evPay_onBus i)
  case xResp i => exact s.leadsTo_of_onBus (s.evResp_onBus i)
  case xCsOff => exact State.evCsOff_leadsTo hp

theorem leadsTo_of_exec_next {s t : State} {x : Instr} (h : exec x s = .next t) : s.leadsTo t :=
  exec_next h ▸ s.leadsTo_afterEvent

/-- Settles O25: byte `i` by the two equations of `R_OUT(i)`; from outside, `R_OUT` is entered at a release alone. -/
theorem readByteGoesOut : Obligations.ReadByteGoesOut := by
  refine ⟨fun s i hp ht hmax => ?byte, fun s t x j h htp hout => ?entry⟩
  case byte =>
    rw [exec_read_of_rOut hp]
    refine ⟨?inner, ?last⟩
    case inner => exact fun hc => ⟨by omega, congrArg Host.Outcome.next (State.evROut_inner ht _ hc)⟩
    case last => exact fun hc => congrArg Host.Outcome.next (State.evROut_last ht hc)
  case entry =>
    have hl := leadsTo_of_exec_next h
    simp only [State.leadsTo, htp] at hl
    exact hl.resolve_left fun ⟨i, hi⟩ => hout i hi

/-- Settles O29: the acknowledgement by its equation; each phase, where it was not already there, is entered with its command
complete. -/
theorem finalAckThenIdle : Obligations.FinalAckThenIdle := by
  refine ⟨fun s ht => ⟨fun hp => ?ack2, fun hp => ?eAck⟩, fun s t x h hne => ?entry⟩
  case ack2 => rw [exec_write_of_ack2 hp, State.evFinalAck_ready ht]; rfl
  case eAck => rw [exec_erase_of_eAck hp, State.evFinalAck_ready ht]; rfl
  case entry =>
    have hl := leadsTo_of_exec_next h
    constructor <;> intro htp <;> simp only [State.leadsTo, htp] at hl <;>
      exact hl.resolve_left fun hp => hne (htp.trans hp.symm)

end Sys2Proof.Machine
end

section
/-! PROOFS. The encodings (spec/30_encoding.md): tags, host frames and bus transactions round-trip, and a decoded frame spells back the
bytes it was read from. -/

namespace Sys2Proof.Machine

/-! ### Tags (R91, R102) -/

theorem decodeTag_opcodeOf {i : Instr} (ht : i.onTransport = true) (hw : i.wellFormed = true) : decodeTag (opcodeOf i) = i := by
  cases i with
  | read | write | erase | detect => rfl
  | unknown t => exact decodeTag_of_not_tag (t := t) (by simpa [Instr.wellFormed] using hw)
  | _ => cases ht

/-- A tag that decodes to an instruction is the instruction's byte. -/
theorem opcodeOf_decodeTag (t : Byte) : opcodeOf (decodeTag t) = t :=
  (List.singleton_inj.mp (Laws.OneWord.tag_unique (b := t) rfl)).symm

/-- The dispatcher reads only well-formed instructions: an unknown tag is none of the four. -/
theorem decodeTag_wellFormed (t : Byte) : (decodeTag t).wellFormed = true := by
  unfold decodeTag
  split_ifs with hR hW hE hD
  case neg => simp [Instr.wellFormed, isCommandTag_eq_false_iff.mpr ⟨hR, hW, hE, hD⟩]
  all_goals rfl

/-- Settles O1: the tag decoder for the host instructions, the opcode decoder for the bus instructions. -/
theorem instructionWordsRoundTrip : Obligations.InstructionWordsRoundTrip := by
  intro i hw
  cases ht : i.onTransport with
  | true => simp [decodeFor, encode, ht, decodeTag_opcodeOf ht hw]
  | false => simp [decodeFor, encode, ht, decodeBus_opcodeOf ht]

/-- Settles O5: each word is evaluated. -/
theorem specExampleWordsDecode : Obligations.SpecExampleWordsDecode := ⟨rfl, rfl, rfl, rfl, rfl⟩

set_option maxRecDepth 4000 in
/-- Settles O6: the four tags by evaluation, every other byte by `decodeTag_of_not_tag`. -/
theorem tagMatchingIsExact : Obligations.TagMatchingIsExact :=
  ⟨rfl, rfl, rfl, rfl, fun _ hR hW hE hD => decodeTag_of_not_tag (isCommandTag_eq_false_iff.mpr ⟨hR, hW, hE, hD⟩), by decide⟩

/-! ### Byte order (R60, R61) -/

theorem byteOf_toNat (v : Word) (k : Nat) : (byteOf v k).toNat = v.toNat / 2 ^ (8 * k) % 256 := by
  simp [byteOf, BitVec.extractLsb'_toNat, Nat.shiftRight_eq_div_pow]

theorem beByte24_toNat (a : BusAddr) (k : Nat) : (beByte24 a k).toNat = a.toNat / 2 ^ (8 * (2 - k)) % 256 := by
  simp [beByte24, BitVec.extractLsb'_toNat, Nat.shiftRight_eq_div_pow]

/-- The bytes sent for a 32-bit value spell it (R144). -/
theorem toNat_eq_bytes (v : Word) :
    v.toNat = (byteOf v 0).toNat + 256 * (byteOf v 1).toNat + 65536 * (byteOf v 2).toNat + 16777216 * (byteOf v 3).toNat := by
  have hv := v.isLt
  simp only [byteOf_toNat]
  omega

/-- Settles O7: `toNat_eq_bytes`, for a value assembled from four bytes and for any value. -/
theorem hostFieldsAreLittleEndian : Obligations.HostFieldsAreLittleEndian := by
  refine ⟨fun b0 b1 b2 b3 => ?_, fun v => ⟨_, _, _, _, rfl, toNat_eq_bytes v⟩⟩
  obtain ⟨h0, h1, h2, h3⟩ := byteOf_le32 b0 b1 b2 b3
  rw [toNat_eq_bytes (le32 b0 b1 b2 b3), h0, h1, h2, h3]

/-- Settles O8: the three bytes are the base-256 digits of the low 24 bits. -/
theorem busAddressIsBigEndian : Obligations.BusAddressIsBigEndian := by
  intro addr
  refine ⟨_, _, _, rfl, ?_⟩
  simp only [beByte24_toNat, busAddr, BitVec.toNat_setWidth]
  omega

/-! ### Host frames (R90 to R97) -/

theorem takeBytes_append (p rest : List Byte) : takeBytes p.length (p ++ rest) = some (p, rest) := by
  induction p with
  | nil => cases rest <;> rfl
  | cons b p ih => simp [takeBytes, ih]

theorem takeBytes_eq_some {n : Nat} {bs p rest : List Byte} (h : takeBytes n bs = some (p, rest)) :
    p.length = n ∧ bs = p ++ rest := by
  induction n generalizing bs p with
  | zero =>
    simp only [takeBytes, Option.some.injEq, Prod.mk.injEq] at h
    obtain ⟨rfl, rfl⟩ := h
    exact ⟨rfl, rfl⟩
  | succ n ih =>
    cases bs with
    | nil => cases h
    | cons b bs =>
      simp only [takeBytes, Option.map_eq_some_iff, Prod.mk.injEq, Prod.exists] at h
      obtain ⟨p', rest', hp, rfl, rfl⟩ := h
      obtain ⟨rfl, rfl⟩ := ih hp
      exact ⟨rfl, rfl⟩

theorem decodeParams_leBytes32 (a l : Word) (rest : List Byte) :
    decodeParams (leBytes32 a ++ leBytes32 l ++ rest) = .ok (a, l, rest) := by
  simp [leBytes32, decodeParams, le32_leBytes32]

theorem decodeParams_eq_ok {bs rest : List Byte} {a l : Word} (h : decodeParams bs = .ok (a, l, rest)) :
    bs = leBytes32 a ++ leBytes32 l ++ rest := by
  unfold decodeParams at h
  split at h
  · simp only [Except.ok.injEq, Prod.mk.injEq] at h
    obtain ⟨rfl, rfl, rfl⟩ := h
    simp [leBytes32_le32]
  · cases h

theorem ofNat_length_toNat {p : List Byte} (h : p.length < 2 ^ 32) : (BitVec.ofNat 32 p.length).toNat = p.length :=
  (BitVec.toNat_ofNat _ _).trans (Nat.mod_eq_of_lt h)

/-- Settles O2: the tag tells the format; the parameters and the payload are read back by `decodeParams_leBytes32` and
`takeBytes_append`. -/
theorem framesRoundTrip : Obligations.FramesRoundTrip := by
  intro f rest hw
  cases f with
  | read a l =>
    have ht : decodeTag 0x52#8 = .read := rfl
    simp only [encodeFrame, List.cons_append, decodeFrame, ht, decodeParams_leBytes32]
  | write a p =>
    have ht : decodeTag 0x57#8 = .write := rfl
    have hp : (BitVec.ofNat 32 p.length).toNat = p.length := ofNat_length_toNat (of_decide_eq_true hw)
    simp only [encodeFrame, List.cons_append, decodeFrame, ht, List.append_assoc]
    rw [← List.append_assoc, decodeParams_leBytes32]
    simp only [hp, takeBytes_append]
  | erase => rfl
  | detect => rfl
  | unknown t =>
    have ht : isCommandTag t = false := by simpa [Frame.wellFormed] using hw
    simp only [encodeFrame, List.cons_append, List.nil_append, decodeFrame, decodeTag_of_not_tag ht]

theorem encodeFrame_length (f : Frame) : (encodeFrame f).length = f.length := by
  cases f with
  | write a p => simp [encodeFrame, Frame.length]; omega
  | _ => rfl

/-- Settles O3: by the tag read, whose byte `opcodeOf_decodeTag` gives back. -/
theorem decodedFrameSpellsItsBytes : Obligations.DecodedFrameSpellsItsBytes := by
  intro bs rest f h
  suffices hf : f.wellFormed = true ∧ bs = encodeFrame f ++ rest from ⟨hf.1, hf.2, encodeFrame_length f⟩
  cases bs with
  | nil => cases h
  | cons t bs =>
    have hb := opcodeOf_decodeTag t
    have hw := decodeTag_wellFormed t
    have ho := decodeTag_onTransport t
    cases hd : decodeTag t <;> simp only [decodeFrame, hd] at h <;> rw [hd] at hb hw ho
    case read =>
      split at h
      · rename_i a l r hp
        cases h
        exact ⟨rfl, by rw [decodeParams_eq_ok hp, ← hb]; rfl⟩
      · cases h
    case write =>
      split at h
      · rename_i a l r hp
        split at h
        · rename_i payload r' hq
          cases h
          obtain ⟨hl, rfl⟩ := takeBytes_eq_some hq
          refine ⟨decide_eq_true (hl ▸ l.isLt), ?_⟩
          rw [decodeParams_eq_ok hp, ← hb, encodeFrame, hl, BitVec.ofNat_toNat, BitVec.setWidth_eq]
          simp [opcodeOf]
        · cases h
      · cases h
    case erase => cases h; exact ⟨rfl, by rw [← hb]; rfl⟩
    case detect => cases h; exact ⟨rfl, by rw [← hb]; rfl⟩
    case unknown u => cases h; cases hb; exact ⟨hw, rfl⟩
    all_goals cases ho

/-! ### Bus transactions (R99) -/

theorem dummyCount_replicate (n : Nat) : dummyCount (List.replicate n 0x00#8) = some n := by
  induction n with
  | zero => rfl
  | succ n ih => simp [List.replicate_succ, dummyCount, ih]

theorem decodeBusCmd_read (a : BusAddr) (n : Nat) : decodeBusCmd (encodeBusCmd (.read a n)) = .ok (.read a n) := by
  have ho : decodeBus 0x03#8 = .ok .busRead := rfl
  simp [encodeBusCmd, decodeBusCmd, ho, beBytes24, dummyCount_replicate, be24_beBytes24]

theorem decodeBusCmd_program (a : BusAddr) (p : List Byte) :
    decodeBusCmd (encodeBusCmd (.program a p)) = .ok (.program a p) := by
  have ho : decodeBus 0x02#8 = .ok .busPp := rfl
  simp [encodeBusCmd, decodeBusCmd, ho, beBytes24, be24_beBytes24]

/-- Settles O4: the opcode tells the format; the address is read back by `be24_beBytes24`. -/
theorem busTransactionsRoundTrip : Obligations.BusTransactionsRoundTrip := by
  intro c hw
  cases c with
  | read a n => exact decodeBusCmd_read a n
  | program a p => exact decodeBusCmd_program a p
  | rdid | wren | chipErase | rdsr => rfl

end Sys2Proof.Machine
end

section
/-! PROOFS. The capacity table (R160 to R163) and the bits of an exchange (R62, R181). -/

namespace Sys2Proof.Machine

theorem cap_ne_zero (c : Config.OpenCode) : Config.cap c ≠ 0#32 := by
  have hlt := (Config.capLessOne c).isLt
  intro h
  have hz := congrArg BitVec.toNat h
  simp only [Config.cap, BitVec.toNat_ofNat] at hz
  omega

/-- Settles O54: the first family by its nine codes; a byte outside both ranges differs from all fifteen codes. -/
theorem capacityTableIsTotal : Obligations.CapacityTableIsTotal := by
  refine ⟨fun id hlo hhi => ?family, rfl, ⟨rfl, rfl, rfl, rfl, rfl, cap_ne_zero⟩, fun id h1 h2 => ?other⟩
  case family =>
    have hid : id = BitVec.ofNat 8 id.toNat := by simp
    generalize id.toNat = n at hid hlo hhi ⊢
    subst hid
    interval_cases n <;> rfl
  case other =>
    have hne : ∀ c : Nat, c < 256 → ((0x11 ≤ c ∧ c ≤ 0x19) ∨ (0x40 ≤ c ∧ c ≤ 0x90 ∧ c % 16 = 0)) → id ≠ BitVec.ofNat 8 c := by
      rintro c hc hr rfl
      rw [BitVec.toNat_ofNat, Nat.mod_eq_of_lt hc] at h1 h2
      exact hr.elim h1 h2
    simp [capOf, hne]

/-- A cycle moves every bit up by one and takes in the bit on `miso` (R34). -/
theorem shiftCycle_getElem (reg : Byte) (m : Bool) (j : Nat) (hj : j < 8) :
    (shiftCycle reg m).2[j] = if j = 0 then m else reg[j - 1] := by
  cases j <;> cases m <;> simp [shiftCycle, ← BitVec.getLsbD_eq_getElem, hj]

/-- Settles O60: after eight cycles bit `j` of the register is the bit the chip sent in cycle `7 - j`, and cycle `j` sent bit
`7 - j` of `o`. -/
theorem exchangeShiftsMostSignificantFirst : Obligations.ExchangeShiftsMostSignificantFirst := by
  intro o i
  have top : ∀ (reg : Byte) (m : Bool), (shiftCycle reg m).1 = reg.getLsbD 7 := fun _ _ => rfl
  simp only [exchangeBits, bitsMsbFirst, shiftBits, top, Prod.mk.injEq]
  constructor
  · simp [shiftCycle_getElem]
  · apply BitVec.eq_of_getElem_eq
    intro j hj
    interval_cases j <;> simp [shiftCycle_getElem]

end Sys2Proof.Machine
end

section
/-! PROOFS. The one event of a step (R22, R44): the event of the phase, where it is not blocked, is the one the phase names, and the
queue, the chip, chip-select and the history change as that event says. -/

namespace Sys2Proof.Machine

/-! ### What an event does outside the block -/

/-- The chip after an event that follows the history `h` (R42). -/
def Chip.after (c : Chip) (h : List Event) : Event → Chip
  | .csAssert => c.select
  | .csDeassert => c.deselect h
  | .xfer o _ => (c.exchange h o).2
  | _ => c

/-- Chip-select after an event, from its level before (R31). -/
def Event.csAfter (level : Bool) : Event → Bool
  | .csAssert => true
  | .csDeassert => false
  | _ => level

/-- `t` is `s` after the event `e`, as far as the transport, the chip and the history go. -/
structure State.Performs (s : State) (e : Event) (t : State) : Prop where
  hist : t.hist = s.hist ++ [e]
  rxq : s.rxq = e.rxByte.toList ++ t.rxq
  chip : t.chip = s.chip.after s.hist e
  csActive : t.csActive = Event.csAfter s.csActive e
  rst : t.rst = s.rst
  txReady : t.txReady = s.txReady
  inputs : t.inputs = s.inputs

/-- What `RxByte`, `TxByte`, `Wait`, `CsAssert`, `CsDeassert` and `Xfer` have in common with what follows them: nothing outside the
working registers changes further. -/
structure State.SameOutside (t u : State) : Prop where
  hist : u.hist = t.hist
  rxq : u.rxq = t.rxq
  chip : u.chip = t.chip
  csActive : u.csActive = t.csActive
  rst : u.rst = t.rst
  txReady : u.txReady = t.txReady
  inputs : u.inputs = t.inputs

theorem State.Performs.trans {s t u : State} {e : Event} (h : s.Performs e t) (hu : t.SameOutside u) : s.Performs e u where
  hist := hu.hist.trans h.hist
  rxq := hu.rxq ▸ h.rxq
  chip := hu.chip.trans h.chip
  csActive := hu.csActive.trans h.csActive
  rst := hu.rst.trans h.rst
  txReady := hu.txReady.trans h.txReady
  inputs := hu.inputs.trans h.inputs

theorem State.SameOutside.trans {s t u : State} (h : s.SameOutside t) (hu : t.SameOutside u) : s.SameOutside u where
  hist := hu.hist.trans h.hist
  rxq := hu.rxq.trans h.rxq
  chip := hu.chip.trans h.chip
  csActive := hu.csActive.trans h.csActive
  rst := hu.rst.trans h.rst
  txReady := hu.txReady.trans h.txReady
  inputs := hu.inputs.trans h.inputs

/-! ### The event primitives -/

theorem State.performs_rx {s : State} {b : Byte} {q : List Byte} (hq : s.rxq = b :: q) :
    s.Performs (.rx b) ((s.setRxq q).log (.rx b)) := ⟨rfl, hq, rfl, rfl, rfl, rfl, rfl⟩

theorem State.performs_tx (s : State) (v : Byte) : s.Performs (.tx v) (s.log (.tx v)) := ⟨rfl, rfl, rfl, rfl, rfl, rfl, rfl⟩

theorem State.performs_wait (s : State) (w : WaitKind) : s.Performs (.wait w) (s.wait w) := ⟨rfl, rfl, rfl, rfl, rfl, rfl, rfl⟩

theorem State.performs_csAssert (s : State) : s.Performs .csAssert s.csAssert := ⟨rfl, rfl, rfl, rfl, rfl, rfl, rfl⟩

theorem State.performs_csDeassert (s : State) : s.Performs .csDeassert s.csDeassert := ⟨rfl, rfl, rfl, rfl, rfl, rfl, rfl⟩

theorem State.performs_xfer (s : State) (o : Byte) : s.Performs (.xfer o (s.answer o)) (s.xfer o) :=
  ⟨rfl, rfl, rfl, rfl, rfl, rfl, rfl⟩

/-! ### What follows an event stays inside the block -/

theorem State.sameOutside_goto (s : State) (p : Phase) : s.SameOutside (s.goto p) := ⟨rfl, rfl, rfl, rfl, rfl, rfl, rfl⟩

theorem State.sameOutside_setBuf (s : State) (i : Fin 256) (b : Byte) : s.SameOutside (s.setBuf i b) :=
  ⟨rfl, rfl, rfl, rfl, rfl, rfl, rfl⟩

theorem State.sameOutside_setup (s : State) (op : Byte) (a : Option BusAddr) (p r : Count) (d : Option Dst) (t : Ret) :
    s.SameOutside (s.setup op a p r d t) := ⟨rfl, rfl, rfl, rfl, rfl, rfl, rfl⟩

theorem State.sameOutside_loopHead (s : State) (c : Transfer) : s.SameOutside (s.loopHead c) := by constructor <;> simp

theorem State.sameOutside_advance (s : State) (c : Transfer) : s.SameOutside (s.advance c) := by constructor <;> simp

theorem State.sameOutside_capture (s : State) (i : Fin 256) (v : Byte) : s.SameOutside (s.capture i v) := by constructor <;> simp

theorem State.sameOutside_continueAt (s : State) : s.SameOutside s.continueAt := by constructor <;> simp

theorem State.sameOutside_storeParam (s : State) (k : Fin 8) (b : Byte) : s.SameOutside (s.storeParam k b) := by
  unfold State.storeParam
  split <;> exact ⟨rfl, rfl, rfl, rfl, rfl, rfl, rfl⟩

theorem State.sameOutside_dispatched (s : State) (i : Instr) : s.SameOutside (s.dispatched i) := by
  cases i <;> exact ⟨rfl, rfl, rfl, rfl, rfl, rfl, rfl⟩

/-! ### The phases that await or offer a byte -/

/-- `PARAM(c, k)` with a byte waiting: it is stored, then the next parameter byte or the acknowledgement (R141). -/
theorem State.evParam_cons {s : State} {b : Byte} {q : List Byte} (hq : s.rxq = b :: q) (c : Transfer) (k : Fin 8) :
    s.evParam c k = (((s.setRxq q).log (.rx b)).storeParam k b).goto
      (if h : k.val < 7 then .param c ⟨k.val + 1, by omega⟩ else .ack1 c) := by
  unfold State.evParam
  rw [State.rxByte_cons hq]
  by_cases hk : k.val < 7
  · have hi : k.val + 1 < 8 := by omega
    simp only [nextIndex_of_lt hi hi, dif_pos hk, State.storeParam]
  · have hi : 8 ≤ k.val + 1 := by omega
    simp only [nextIndex_end hi, dif_neg hk, State.storeParam]

theorem State.evAck1_ready {s : State} (ht : s.txReady = true) (c : Transfer) :
    s.evAck1 c = (s.log (.tx 0xAA#8)).loopHead c := State.txByte_ready ht

theorem State.evParam_nil {s : State} (hq : s.rxq = []) (c : Transfer) (k : Fin 8) : s.evParam c k = s := State.rxByte_nil hq

theorem State.evWIn_nil {s : State} (hq : s.rxq = []) (i : Fin 256) : s.evWIn i = s := State.rxByte_nil hq

/-- What a blocked step answers, or the event performed and what is left of the state. -/
def State.BlockedOrPerforms (s t : State) : Prop :=
  (s.blocked = true ∧ t = s) ∨ (s.blocked = false ∧ ∃ e, s.names e ∧ s.Performs e t)

/-- Where the phase's event is blocked: a phase that takes a byte on an empty queue, one that offers a byte while the transport does
not accept, no other (R252). -/
theorem State.blocked_eq (s : State) : s.blocked =
    match s.phase with
    | .idle | .param _ _ | .wIn _ => s.rxq.isEmpty
    | .ack1 _ | .rOut _ | .ack2 | .eAck | .dOut _ => !s.txReady
    | _ => false := by
  unfold State.blocked State.offered
  cases hp : s.phase with
  | param c k => cases c <;> simp [Phase.takesByte]
  | ack1 c => cases c <;> simp [Phase.takesByte]
  | _ => simp [Phase.takesByte]

/-- In a phase that takes a byte: the byte is the one named, and what follows stays inside the block. -/
theorem State.rxByte_performs {s : State} {k : Byte → State → State} (hb : s.blocked = s.rxq.isEmpty)
    (hn : ∀ b q, s.rxq = b :: q → s.names (.rx b)) (hk : ∀ (b : Byte) (u : State), u.SameOutside (k b u)) :
    s.BlockedOrPerforms (s.rxByte k) := by
  cases hq : s.rxq with
  | nil => exact .inl ⟨by rw [hb, hq]; rfl, State.rxByte_nil hq⟩
  | cons b q =>
    rw [State.rxByte_cons hq]
    exact .inr ⟨by rw [hb, hq]; rfl, _, hn b q hq, (State.performs_rx hq).trans (hk b _)⟩

theorem State.txByte_performs {s : State} {v : Byte} {k : State → State} (hb : s.blocked = !s.txReady) (hn : s.names (.tx v))
    (hk : ∀ u : State, u.SameOutside (k u)) : s.BlockedOrPerforms (s.txByte v k) := by
  cases hr : s.txReady with
  | false => exact .inl ⟨by rw [hb, hr]; rfl, State.txByte_blocked hr⟩
  | true =>
    rw [State.txByte_ready hr]
    exact .inr ⟨by rw [hb, hr]; rfl, _, hn, (s.performs_tx v).trans (hk _)⟩

/-- The event of the phase is performed, or it is blocked and nothing changes. -/
theorem State.afterEvent_performs (s : State) : s.BlockedOrPerforms s.afterEvent := by
  have hb := s.blocked_eq
  cases hp : s.phase <;> simp only [hp] at hb <;> simp only [State.afterEvent, hp]
  case idle =>
    cases hq : s.rxq with
    | nil => exact .inl ⟨by rw [hb, hq]; rfl, rfl⟩
    | cons b q =>
      exact .inr ⟨by rw [hb, hq]; rfl, .rx b, by simp [State.names, hp, hq],
        (State.performs_rx hq).trans (State.sameOutside_dispatched _ _)⟩
  case param c k =>
    refine State.rxByte_performs hb (fun b q hq => by simp [State.names, hp, hq]) fun b u => ?_
    have hu := u.sameOutside_storeParam k b
    dsimp only
    cases nextIndex k 8 with
    | some k' => exact hu.trans (State.sameOutside_goto _ _)
    | none => exact hu.trans (State.sameOutside_goto _ _)
  case ack1 c => exact State.txByte_performs hb (by simp [State.names, hp, Config.ack]) fun u => u.sameOutside_loopHead c
  case rOut i =>
    refine State.txByte_performs hb (by simp [State.names, hp]) fun u => ?_
    cases nextIndex i u.chunk.toNat with
    | some i' => exact u.sameOutside_goto _
    | none => exact u.sameOutside_advance _
  case wIn i =>
    refine State.rxByte_performs hb (fun b q hq => by simp [State.names, hp, hq]) fun b u => ?_
    have hu := u.sameOutside_setBuf i b
    dsimp only
    cases nextIndex i (u.setBuf i b).chunk.toNat with
    | some i' => exact hu.trans (State.sameOutside_goto _ _)
    | none => exact hu.trans (State.sameOutside_setup _ _ _ _ _ _ _)
  case gap c =>
    refine .inr ⟨hb, .wait .wrenGap, by simp only [State.names, hp], ?_⟩
    cases c <;> exact (s.performs_wait _).trans (State.sameOutside_setup _ _ _ _ _ _ _)
  case pollWait c =>
    exact .inr ⟨hb, .wait .poll, by simp only [State.names, hp], (s.performs_wait _).trans (State.sameOutside_setup _ _ _ _ _ _ _)⟩
  case ack2 => exact State.txByte_performs hb (by simp [State.names, hp, Config.ack]) fun u => u.sameOutside_goto _
  case eAck => exact State.txByte_performs hb (by simp [State.names, hp, Config.ack]) fun u => u.sameOutside_goto _
  case dOut k =>
    refine State.txByte_performs hb (by simp [State.names, hp]) fun u => ?_
    cases nextIndex k 7 <;> exact u.sameOutside_goto _
  case xCsOn => exact .inr ⟨hb, .csAssert, by simp only [State.names, hp], s.performs_csAssert.trans (State.sameOutside_goto _ _)⟩
  case xOp => exact .inr ⟨hb, _, by simp only [State.names, hp], (s.performs_xfer s.xop).trans (State.sameOutside_goto _ _)⟩
  case xAddr k =>
    exact .inr ⟨hb, _, by simp only [State.names, hp], (s.performs_xfer (beByte24 s.xaddr k.val)).trans (State.sameOutside_goto _ _)⟩
  case xPay i => exact .inr ⟨hb, _, by simp only [State.names, hp], (s.performs_xfer s.buf[i.val]).trans (State.sameOutside_goto _ _)⟩
  case xResp i =>
    exact .inr ⟨hb, _, by simp only [State.names, hp],
      ((s.performs_xfer 0x00#8).trans (State.sameOutside_capture _ i _)).trans (State.sameOutside_goto _ _)⟩
  case xCsOff =>
    exact .inr ⟨hb, .csDeassert, by simp only [State.names, hp], s.performs_csDeassert.trans (State.sameOutside_continueAt _)⟩

end Sys2Proof.Machine
end

section
/-! PROOFS. The invariant of the machine (`State.Inv`) holds at reset and is kept by every step: chip-select from the phase, the queue
from the host's input, the array and the bytes the chip has received from the event performed. -/

namespace Sys2Proof.Machine

/-! ### Chip-select (R182) -/

/-- The loop head is outside every transaction. -/
theorem State.loopHead_selected (s : State) (c : Transfer) : (s.loopHead c).phase.selected = false := by
  by_cases hr : s.rem = 0
  · rw [State.loopHead_done c hr]; cases c <;> rfl
  · cases c with
    | r => rw [State.loopHead_read hr]; rfl
    | w => rw [State.loopHead_write hr]; rfl

theorem State.advance_selected (s : State) (c : Transfer) : (s.advance c).phase.selected = false :=
  State.loopHead_selected _ c

theorem State.pollDone_selected (s : State) (c : WriteClass) : (s.pollDone c).phase.selected = false := by
  cases hb : s.busyFlag with
  | true => rw [State.pollDone_busy c hb]; rfl
  | false =>
    cases c with
    | w => rw [State.pollDone_write hb]; exact s.advance_selected .w
    | e => rw [State.pollDone_erase hb]; rfl

theorem State.continueAt_selected (s : State) : s.continueAt.phase.selected = false := by
  unfold State.continueAt
  split
  case h_7 c hr => exact s.pollDone_selected c
  all_goals rfl

theorem State.afterPay_selected (s : State) : s.afterPay.selected = true := by unfold State.afterPay; split <;> rfl

theorem State.afterAddr_selected (s : State) : s.afterAddr.selected = true := by
  unfold State.afterAddr; split
  · rfl
  · exact s.afterPay_selected

theorem State.afterOp_selected (s : State) : s.afterOp.selected = true := by
  unfold State.afterOp; split
  · rfl
  · exact s.afterAddr_selected

/-- Chip-select is active exactly in `X_OP .. X_CSOFF`. -/
def State.selectOk (s : State) : Prop := s.csActive = s.phase.selected

theorem State.selectOk_of_released {s : State} (hc : s.csActive = false) (hp : s.phase.selected = false) : s.selectOk :=
  hc.trans hp.symm

/-- The event of the phase keeps chip-select what the phase says. -/
theorem State.afterEvent_selectOk {s : State} (h : s.selectOk) : s.afterEvent.selectOk := by
  have hs : s.csActive = s.phase.selected := h
  cases hp : s.phase <;> simp only [hp, Phase.selected] at hs <;> simp only [State.afterEvent, hp]
  case idle =>
    split
    · exact h
    · rename_i b q _
      cases decodeTag b <;> exact hs
  case param c k =>
    refine State.rxByte_keeps h fun b q => ?_
    dsimp only
    cases nextIndex k 8 <;> exact ((State.sameOutside_storeParam _ k b).csActive.trans hs)
  case ack1 c => exact State.txByte_keeps h (State.selectOk_of_released (by simpa using hs) (State.loopHead_selected _ c))
  case rOut i =>
    refine State.txByte_keeps h ?_
    split
    · exact hs
    · exact State.selectOk_of_released (by simpa using hs) (State.advance_selected _ .r)
  case wIn i =>
    refine State.rxByte_keeps h fun b q => ?_
    dsimp only
    split <;> exact hs
  case gap c => cases c <;> exact hs
  case pollWait c => exact hs
  case ack2 => exact State.txByte_keeps h hs
  case eAck => exact State.txByte_keeps h hs
  case dOut k =>
    refine State.txByte_keeps h ?_
    split <;> exact hs
  case xCsOn => rfl
  case xOp => exact hs.trans s.afterOp_selected.symm
  case xAddr k =>
    unfold State.evAddr
    split
    · exact hs
    · exact hs.trans s.afterAddr_selected.symm
  case xPay i =>
    unfold State.evPay
    split
    · exact hs
    · exact hs.trans s.afterPay_selected.symm
  case xResp i =>
    unfold State.evResp
    have hc : ((s.xfer 0x00#8).capture i (s.answer 0x00#8)).csActive = true := by simpa using hs
    split <;> exact hc
  case xCsOff => exact State.selectOk_of_released (by simp [State.evCsOff, State.csDeassert]) (State.continueAt_selected _)

/-! ### The bytes the chip has received -/

/-- Only Read JEDEC ID, Read Data and the status poll have response bytes: at most 256 of them and no payload. -/
theorem State.descriptorOk.of_response {s : State} (h : s.descriptorOk) (hn : s.xnresp ≠ 0) :
    s.xnpay = 0 ∧ s.xnresp.toNat ≤ 256 := by
  obtain ⟨-, -, hp, hr, -⟩ | ⟨-, -, -, hp, hr, -, -, -, hc⟩ | ⟨-, -, -, h0, -⟩ | ⟨-, -, -, -, h0, -⟩ | ⟨-, -, -, h0, -⟩ |
    ⟨-, -, hp, hr, -⟩ := h
  case inl => exact ⟨hp, by rw [hr]; decide⟩
  case inr.inl => exact ⟨hp, by rw [hr, hc, chunkOf_toNat]; omega⟩
  case inr.inr.inr.inr.inr => exact ⟨hp, by rw [hr]; decide⟩
  all_goals exact absurd h0 hn

theorem beBytes24_take_succ (a : BusAddr) (k : Fin 3) :
    (beBytes24 a).take (k.val + 1) = (beBytes24 a).take k.val ++ [beByte24 a k.val] := by
  fin_cases k <;> rfl

theorem vector_take_succ (v : Vector Byte 256) (i : Fin 256) :
    v.toList.take (i.val + 1) = v.toList.take i.val ++ [v[i.val]] := by
  rw [List.take_add_one]
  simp

theorem State.addrBytes_of_hasAddr {s : State} (h : s.xhasAddr = true) : s.addrBytes = beBytes24 s.xaddr := by
  simp [State.addrBytes, h]

theorem State.addrBytes_of_no_addr {s : State} (h : s.xhasAddr = false) : s.addrBytes = [] := by
  simp [State.addrBytes, h]

theorem State.payload_of_zero {s : State} (h : s.xnpay.toNat = 0) : s.payload = [] := by
  simp [State.payload, h]

theorem State.sent_goto_xAddr (s : State) (k : Fin 3) : (s.goto (.xAddr k)).sent = s.xop :: (beBytes24 s.xaddr).take k.val := rfl

theorem State.sent_goto_xPay (s : State) (i : Fin 256) :
    (s.goto (.xPay i)).sent = s.xop :: (s.addrBytes ++ s.buf.toList.take i.val) := rfl

theorem State.sent_goto_xResp (s : State) (i : Fin 256) :
    (s.goto (.xResp i)).sent = s.xop :: (s.addrBytes ++ s.payload ++ List.replicate i.val 0x00#8) := rfl

theorem State.sent_goto_xCsOff (s : State) : (s.goto .xCsOff).sent = s.mosiBytes := rfl

theorem State.sent_goto_afterPay (s : State) : (s.goto s.afterPay).sent = s.xop :: (s.addrBytes ++ s.payload) := by
  unfold State.afterPay
  split
  · simp [State.sent_goto_xResp]
  · have h0 : s.xnresp.toNat = 0 := by omega
    simp [State.sent_goto_xCsOff, State.mosiBytes, h0]

theorem State.sent_goto_afterAddr (s : State) : (s.goto s.afterAddr).sent = s.xop :: s.addrBytes := by
  unfold State.afterAddr
  split
  · simp [State.sent_goto_xPay]
  · rw [State.sent_goto_afterPay, State.payload_of_zero (by omega), List.append_nil]

theorem State.sent_goto_afterOp (s : State) : (s.goto s.afterOp).sent = [s.xop] := by
  unfold State.afterOp
  split
  · rfl
  · rw [State.sent_goto_afterAddr, State.addrBytes_of_no_addr (Bool.not_eq_true _ ▸ ‹¬ _›)]

theorem State.sent_evAddr {s : State} {k : Fin 3} (hp : s.phase = .xAddr k) (ha : s.xhasAddr = true) :
    (s.evAddr k).sent = s.sent ++ [beByte24 s.xaddr k.val] := by
  have hs : s.sent ++ [beByte24 s.xaddr k.val] = s.xop :: (beBytes24 s.xaddr).take (k.val + 1) := by
    rw [← State.goto_eq_self hp, State.sent_goto_xAddr, beBytes24_take_succ]
    rfl
  rw [hs]
  unfold State.evAddr
  cases hk : nextIndex k 3 with
  | some k' =>
    obtain ⟨hj, -⟩ := nextIndex_some hk
    rw [← hj]
    exact State.sent_goto_xAddr _ _
  | none =>
    have h3 : k.val + 1 = 3 := by have := nextIndex_none hk; omega
    refine (State.sent_goto_afterAddr (s.xfer (beByte24 s.xaddr k.val))).trans ?_
    rw [h3, State.addrBytes_of_hasAddr (s := s.xfer _) ha]
    rfl

theorem State.sent_evPay {s : State} {i : Fin 256} (hp : s.phase = .xPay i) (hi : i.val < s.xnpay.toNat) :
    (s.evPay i).sent = s.sent ++ [s.buf[i.val]] := by
  have hs : s.sent ++ [s.buf[i.val]] = s.xop :: (s.addrBytes ++ s.buf.toList.take (i.val + 1)) := by
    rw [vector_take_succ, ← List.append_assoc, ← List.cons_append, ← State.sent_goto_xPay, State.goto_eq_self hp]
  rw [hs]
  unfold State.evPay
  cases hk : nextIndex i s.xnpay.toNat with
  | some i' =>
    obtain ⟨hj, -⟩ := nextIndex_some hk
    rw [← hj]
    exact State.sent_goto_xPay _ _
  | none =>
    have hpay : s.payload = s.buf.toList.take (i.val + 1) := by
      obtain hl | hl := nextIndex_none hk
      · rw [State.payload, show s.xnpay.toNat = i.val + 1 by omega]
      · rw [State.payload, List.take_of_length_le (by simp; omega), List.take_of_length_le (by simp; omega)]
    rw [← hpay]
    exact State.sent_goto_afterPay (s.xfer s.buf[i.val])

/-- With no payload, `n` response bytes are in after the opcode, the address and `n` dummy bytes. -/
theorem State.sent_response {s t : State} {n : Nat} (ho : t.xop = s.xop) (ha : t.addrBytes = s.addrBytes)
    (hz : t.xnpay.toNat = 0) :
    t.xop :: (t.addrBytes ++ t.payload ++ List.replicate n 0x00#8) = s.xop :: (s.addrBytes ++ List.replicate n 0x00#8) := by
  rw [ho, ha, State.payload_of_zero hz, List.append_nil]

theorem State.sent_evResp {s : State} {i : Fin 256} (h : s.descriptorOk) (hp : s.phase = .xResp i)
    (hi : i.val < s.xnresp.toNat) : (s.evResp i).sent = s.sent ++ [0x00#8] := by
  obtain ⟨hn, hmax⟩ := h.of_response ((count_pos_iff _).1 (by omega))
  have hz : s.xnpay.toNat = 0 := by rw [hn]; rfl
  have hs : s.sent ++ [0x00#8] = s.xop :: (s.addrBytes ++ List.replicate (i.val + 1) 0x00#8) := by
    have hsent : s.sent = s.xop :: (s.addrBytes ++ s.payload ++ List.replicate i.val 0x00#8) := by simp only [State.sent, hp]
    rw [hsent, State.sent_response rfl rfl hz, List.replicate_succ']
    simp
  rw [hs]
  have ho : ((s.xfer 0x00#8).capture i (s.answer 0x00#8)).xop = s.xop := by simp
  have ha : ((s.xfer 0x00#8).capture i (s.answer 0x00#8)).addrBytes = s.addrBytes := by simp only [State.addrBytes]; simp
  have hz' : ((s.xfer 0x00#8).capture i (s.answer 0x00#8)).xnpay.toNat = 0 := by simpa using hz
  unfold State.evResp
  cases hk : nextIndex i s.xnresp.toNat with
  | some i' =>
    obtain ⟨hj, -⟩ := nextIndex_some hk
    rw [State.sent_goto_xResp, State.sent_response ho ha hz', hj]
  | none =>
    have hl : s.xnresp.toNat = i.val + 1 := by have := nextIndex_none hk; omega
    rw [State.sent_goto_xCsOff, State.mosiBytes, State.sent_response ho ha hz']
    simp [hl]

theorem State.chipOk_of_not_selected {s : State} (h : s.phase.selected = false) : s.chipOk := by
  unfold State.chipOk
  split
  · trivial
  · trivial
  · exact fun hs => absurd (h.symm.trans hs) Bool.false_ne_true

/-- An exchange hands the chip the byte sent. -/
theorem State.chipOk_of_xfer {s t : State} {o : Byte} (h : s.chipOk) (hs : s.phase.selected = true)
    (hc : t.chip = (s.chip.exchange s.hist o).2) (ht : t.sent = s.sent ++ [o]) : t.chipOk := by
  unfold State.chipOk at h ⊢
  cases hk : s.chip with
  | oracle p => rw [hc, hk]; cases p <;> trivial
  | steady p b => rw [hc, hk]; cases p <;> trivial
  | ref c =>
    rw [hk] at h hc
    rw [hc]
    intro _
    rw [ht, ← h hs]
    exact c.exchange_cmd o

/-- Outside the transactions no event touches chip-select. -/
theorem State.names_offBus {s : State} {e : Event} (hp : s.phase.onBus = false) (hn : s.names e) (level : Bool) :
    Event.csAfter level e = level := by
  unfold State.names at hn
  split at hn
  case h_1 | h_2 | h_3 => obtain ⟨b, q, -, rfl⟩ := hn; rfl
  case h_4 | h_5 | h_6 | h_7 | h_8 | h_9 | h_10 => subst hn; rfl
  all_goals
    rename_i h
    rw [h] at hp
    exact absurd (show true = false from hp) Bool.noConfusion

/-- The event of the phase keeps the chip's bytes those the transaction has sent. -/
theorem State.afterEvent_chipOk {s : State} (ok : s.phaseOk) (hsel : s.selectOk) (h : s.chipOk) : s.afterEvent.chipOk := by
  obtain ⟨-, he⟩ | ⟨-, e, hn, hperf⟩ := s.afterEvent_performs
  · rwa [he]
  by_cases hbus : s.phase.onBus = false
  · have hlow : s.phase.selected = false := (Bool.or_eq_false_iff.mp hbus).2
    have hsel' : s.afterEvent.csActive = s.afterEvent.phase.selected := State.afterEvent_selectOk hsel
    refine State.chipOk_of_not_selected (hsel'.symm.trans ?_)
    rw [hperf.csActive, State.names_offBus hbus hn, hsel, hlow]
  cases hp : s.phase <;> simp only [State.names, hp] at hn <;> simp only [State.phaseOk, hp] at ok <;>
    simp only [State.afterEvent, hp] at hperf ⊢
  case xCsOn =>
    unfold State.chipOk
    cases hk : s.chip <;> simp [State.evCsOn, State.csAssert, hk, Chip.select, State.sent]
  case xOp =>
    subst hn
    refine State.chipOk_of_xfer h (by rw [hp]; rfl) hperf.chip ?_
    refine (State.sent_goto_afterOp (s.xfer s.xop)).trans ?_
    simp only [State.sent, hp]
    rfl
  case xAddr k => subst hn; exact State.chipOk_of_xfer h (by rw [hp]; rfl) hperf.chip (State.sent_evAddr hp ok.2)
  case xPay i => subst hn; exact State.chipOk_of_xfer h (by rw [hp]; rfl) hperf.chip (State.sent_evPay hp ok.2)
  case xResp i => subst hn; exact State.chipOk_of_xfer h (by rw [hp]; rfl) hperf.chip (State.sent_evResp ok.1 hp ok.2)
  case xCsOff => exact State.chipOk_of_not_selected (State.continueAt_selected _)
  all_goals exact absurd (by rw [hp]; rfl) hbus

/-! ### The invariant -/

theorem Chip.wf_after {c : Chip} (h : c.wf = true) (hist : List Event) (e : Event) : (c.after hist e).wf = true := by
  cases e with
  | csAssert => exact Chip.wf_select h
  | csDeassert => exact Chip.wf_deselect hist h
  | xfer o i => exact Chip.wf_exchange hist o h
  | _ => exact h

theorem State.Inv.afterEvent {s : State} (h : s.Inv) : s.afterEvent.Inv where
  select := State.afterEvent_selectOk h.select
  phase := State.afterEvent_phaseOk h.phase
  chip := State.afterEvent_chipOk h.phase h.select h.chip
  queue := by
    obtain ⟨-, he⟩ | ⟨-, e, -, hperf⟩ := s.afterEvent_performs
    · rw [he]; exact h.queue
    · have hq := h.queue
      rw [hperf.rxq, List.length_append] at hq
      omega
  array := by
    obtain ⟨-, he⟩ | ⟨-, e, -, hperf⟩ := s.afterEvent_performs
    · rw [he]; exact h.array
    · exact hperf.chip ▸ Chip.wf_after h.array s.hist e

theorem State.Inv.resetStep {s : State} (h : s.Inv) : s.resetStep.Inv where
  select := rfl
  phase := s.resetStep_phaseOk
  chip := State.chipOk_of_not_selected rfl
  queue := by
    unfold State.resetStep
    dsimp only
    split
    · exact Nat.zero_le _
    · exact h.queue
  array := by
    unfold State.resetStep
    dsimp only
    split
    · exact Chip.wf_cutShort h.array
    · exact h.array

theorem State.Inv.latch {s u : State} (h : s.Inv) (hu : s.latch = some u) : u.Inv := by
  obtain ⟨-, rfl⟩ | ⟨x, rest, -, rfl, hfit⟩ := State.latch_some hu
  · exact h
  · refine ⟨h.select, h.phase, ?_, h.array, h.chip⟩
    have hq := h.queue
    obtain he | hl := hfit
    · simpa [he] using hq
    · simpa using hl

/-- Settles O43: a step is the host's input, then a reset or the event of the phase, and each keeps the invariant. -/
theorem stepKeepsTheInvariant : Obligations.StepKeepsTheInvariant := by
  intro s t h hstep
  obtain ⟨u, hu, ⟨-, rfl⟩ | ⟨-, rfl⟩⟩ := step_next hstep
  · exact (h.latch hu).resetStep
  · exact (h.latch hu).afterEvent

theorem State.boot_inv {q : List Byte} {c : Chip} (ins : List HostInput) (hq : q.length ≤ Config.rxDepth) (hc : c.wf = true) :
    (State.boot q ins c).Inv := ⟨rfl, trivial, hq, hc, State.chipOk_of_not_selected rfl⟩

/-- An empty history is disciplined in IDLE. -/
theorem State.boot_disciplined (q : List Byte) (ins : List HostInput) (c : Chip) : (State.boot q ins c).Disciplined :=
  ⟨⟨.free, .released⟩, rfl, rfl⟩

/-- Settles O42: the reset state is `State.boot` with nothing queued. -/
theorem resetMeetsTheInvariants : Obligations.ResetMeetsTheInvariants :=
  ⟨⟨State.boot_inv (q := []) (c := .oracle []) [] (Nat.zero_le _) rfl, State.boot_disciplined [] [] (.oracle [])⟩,
    fun q ins c hq hc => ⟨State.boot_inv ins hq hc, State.boot_disciplined q ins c⟩⟩

/-- Settles O46: the invariant rules out an opcode that is none of the six, so what is left is the overrun of the host's input. -/
theorem nothingElseStopsTheMachine : Obligations.NothingElseStopsTheMachine := by
  intro s h
  unfold step
  cases hu : s.latch with
  | none => exact .inr rfl
  | some u =>
    refine .inl ?_
    cases hr : u.rst with
    | true => exact ⟨u.resetStep, by simp [State.act, hr]⟩
    | false => exact ⟨u.afterEvent, State.act_eq hr (State.fetch_ne_noOpcode (h.latch hu).phase)⟩

end Sys2Proof.Machine
end

section
/-! PROOFS. The discipline of the history (R182, R185, R192, R224, R230): the event a step performs is one the monitor accepts where
the phase puts it, and leaves the monitor where the next phase puts it. -/

namespace Sys2Proof.Machine

/-! ### The monitor -/

theorem monitor_append {h : List Event} {m m' : Mon} {e : Event} (hm : monitor h = some m) (he : m.next e = some m') :
    monitor (h ++ [e]) = some m' := by
  simp only [monitor, List.foldlM_append] at hm ⊢
  rw [hm]
  exact (bind_pure (Mon.next m e)).trans he

/-- Nothing is owed and the chip is released. -/
def Mon.rest : Mon := ⟨.free, .released⟩

theorem Mon.rest_rx (b : Byte) : Mon.rest.next (.rx b) = some .rest := rfl

theorem Mon.rest_tx (b : Byte) : Mon.rest.next (.tx b) = some .rest := rfl

/-- Every opcode of a descriptor may open a transaction where its duty stands. -/
theorem Mon.next_csAssert (op : Byte) : Mon.next ⟨dutyOf op, .released⟩ .csAssert = some ⟨dutyOf op, .opened⟩ := by
  unfold dutyOf
  split_ifs <;> rfl

theorem State.descriptorOk.allows {s : State} (h : s.descriptorOk) : (dutyOf s.xop).allows s.xop = true := by
  obtain ⟨ho, -⟩ | ⟨ho, -⟩ | ⟨ho, -⟩ | ⟨ho, -⟩ | ⟨ho, -⟩ | ⟨ho, -⟩ := h <;> rw [ho] <;> rfl

theorem State.descriptorOk.next_opcode {s : State} (h : s.descriptorOk) (i : Byte) :
    Mon.next ⟨dutyOf s.xop, .opened⟩ (.xfer s.xop i) = some ⟨dutyOf s.xop, .inside s.xop i⟩ := if_pos h.allows

/-- The status poll has one response byte, into `sr`, and no address. -/
theorem State.descriptorOk.of_rdsr {s : State} (h : s.descriptorOk) (ho : s.xop = 0x05#8) : s.xdst = .sr ∧ s.xnresp = 1 := by
  obtain ⟨h', -⟩ | ⟨h', -⟩ | ⟨h', -⟩ | ⟨h', -⟩ | ⟨h', -⟩ | ⟨-, -, -, hn, hd, -⟩ := h
  case inr.inr.inr.inr.inr => exact ⟨hd, hn⟩
  all_goals exact absurd (h'.symm.trans ho) (by decide)

/-! ### Where the next phase puts the monitor -/

theorem State.loopHead_monOk (s : State) (c : Transfer) : (s.loopHead c).monOk .rest := by
  by_cases hr : s.rem = 0
  · rw [State.loopHead_done c hr]; cases c <;> rfl
  · cases c with
    | r => rw [State.loopHead_read hr]; rfl
    | w => rw [State.loopHead_write hr]; rfl

theorem State.dispatched_monOk (s : State) (i : Instr) : (s.dispatched i).monOk .rest := by cases i <;> rfl

/-- After the opcode, the address or the payload the transaction goes on, or ends where it has no response; a status poll has one. -/
theorem State.goto_afterPay_monOk {s : State} (h : s.descriptorOk) (i : Byte) :
    (s.goto s.afterPay).monOk ⟨dutyOf s.xop, .inside s.xop i⟩ := by
  unfold State.afterPay
  split
  · exact ⟨i, rfl⟩
  · refine ⟨i, rfl, fun ho => absurd ?_ ‹¬ _›⟩
    obtain ⟨-, hn⟩ := h.of_rdsr ho
    rw [hn]
    decide

theorem State.goto_afterAddr_monOk {s : State} (h : s.descriptorOk) (i : Byte) :
    (s.goto s.afterAddr).monOk ⟨dutyOf s.xop, .inside s.xop i⟩ := by
  unfold State.afterAddr
  split
  · exact ⟨i, rfl⟩
  · exact State.goto_afterPay_monOk h i

theorem State.evOp_monOk {s : State} (h : s.descriptorOk) (i : Byte) : s.evOp.monOk ⟨dutyOf s.xop, .inside s.xop i⟩ := by
  unfold State.evOp State.afterOp
  split
  · exact ⟨i, rfl⟩
  · exact State.goto_afterAddr_monOk (s := s.xfer s.xop) h i

theorem State.evAddr_monOk {s : State} (h : s.descriptorOk) (k : Fin 3) (i : Byte) :
    (s.evAddr k).monOk ⟨dutyOf s.xop, .inside s.xop i⟩ := by
  unfold State.evAddr
  split
  · exact ⟨i, rfl⟩
  · exact State.goto_afterAddr_monOk (s := s.xfer _) h i

theorem State.evPay_monOk {s : State} (h : s.descriptorOk) (j : Fin 256) (i : Byte) :
    (s.evPay j).monOk ⟨dutyOf s.xop, .inside s.xop i⟩ := by
  unfold State.evPay
  split
  · exact ⟨i, rfl⟩
  · exact State.goto_afterPay_monOk (s := s.xfer _) h i

/-- The last byte a status poll receives is the one in `sr`. -/
theorem State.evResp_monOk {s : State} (h : s.descriptorOk) (j : Fin 256) :
    (s.evResp j).monOk ⟨dutyOf s.xop, .inside s.xop (s.answer 0x00#8)⟩ := by
  have hx : ((s.xfer 0x00#8).capture j (s.answer 0x00#8)).xop = s.xop := by simp
  unfold State.evResp
  split
  · exact ⟨s.answer 0x00#8, by rw [State.goto_xop, hx]⟩
  · refine ⟨s.answer 0x00#8, by rw [State.goto_xop, hx], fun ho => ?_⟩
    rw [State.goto_xop, hx] at ho
    obtain ⟨hd, -⟩ := h.of_rdsr ho
    rw [State.capture_sr_of (s := s.xfer 0x00#8) hd]
    rfl

theorem State.pollDone_monOk (s : State) (c : WriteClass) :
    (s.pollDone c).monOk ⟨if writeInProgress s.sr then .busy else .free, .released⟩ := by
  have hf : writeInProgress s.sr = s.busyFlag := rfl
  rw [hf]
  cases hb : s.busyFlag with
  | true => rw [State.pollDone_busy c hb]; rfl
  | false =>
    cases c with
    | w => rw [State.pollDone_write hb]; exact State.loopHead_monOk _ .w
    | e => rw [State.pollDone_erase hb]; rfl

/-- The release: the duty of the transaction is the one its continuation meets. -/
theorem State.continueAt_monOk {s : State} (h : s.descriptorOk) {last : Byte} (hl : s.xop = 0x05#8 → last = s.sr) :
    s.continueAt.monOk ⟨dutyAfter s.xop last, .released⟩ := by
  obtain ⟨ho, -, -, -, -, hr⟩ | ⟨ho, -, -, -, -, -, hr, -⟩ | ⟨ho, -, -, -, hr⟩ | ⟨ho, -, -, -, -, hr, -⟩ | ⟨ho, -, -, -, hr⟩ |
    ⟨ho, -, -, -, -, hr⟩ := h
  case inr.inr.inl => obtain hr | ⟨hr, -⟩ := hr <;> simp only [State.continueAt, hr, ho] <;> rfl
  case inr.inr.inr.inr.inr =>
    rw [hl ho, ho]
    obtain hr | ⟨hr, -⟩ := hr <;> simp only [State.continueAt, hr] <;> exact s.pollDone_monOk _
  all_goals simp only [State.continueAt, hr, ho]; rfl

/-! ### Every event -/

/-- The event the phase names is one the monitor accepts, and leaves it where the next phase puts it. -/
theorem State.afterEvent_monOk {s : State} {m : Mon} {e : Event} (ok : s.phaseOk) (hm : s.monOk m) (hn : s.names e) :
    ∃ m', m.next e = some m' ∧ s.afterEvent.monOk m' := by
  have hs : ∀ {m'}, m = m' → s.monOk m' := fun h => h ▸ hm
  have hm' := hm
  cases hp : s.phase <;> simp only [State.monOk, hp] at hm' <;> simp only [State.names, hp] at hn <;>
    simp only [State.phaseOk, hp] at ok <;> simp only [State.afterEvent, hp]
  case idle =>
    obtain ⟨b, q, hq, rfl⟩ := hn
    subst hm'
    simp only [hq]
    exact ⟨_, Mon.rest_rx b, State.dispatched_monOk _ _⟩
  case param c k =>
    obtain ⟨b, q, -, rfl⟩ := hn
    subst hm'
    refine ⟨_, Mon.rest_rx b, State.rxByte_keeps (P := (State.monOk · _)) (hs rfl) fun b q => ?_⟩
    dsimp only
    cases nextIndex k 8 <;> rfl
  case ack1 c =>
    subst hn hm'
    exact ⟨_, Mon.rest_tx _, State.txByte_keeps (P := (State.monOk · _)) (hs rfl) (State.loopHead_monOk _ c)⟩
  case rOut i =>
    subst hn hm'
    refine ⟨_, Mon.rest_tx _, State.txByte_keeps (P := (State.monOk · _)) (hs rfl) ?_⟩
    split
    · rfl
    · exact State.loopHead_monOk _ .r
  case wIn i =>
    obtain ⟨b, q, -, rfl⟩ := hn
    subst hm'
    refine ⟨_, Mon.rest_rx b, State.rxByte_keeps (P := (State.monOk · _)) (hs rfl) fun b q => ?_⟩
    dsimp only
    split <;> rfl
  case gap c =>
    subst hn hm'
    exact ⟨⟨.gapped, .released⟩, rfl, by cases c <;> rfl⟩
  case pollWait c =>
    subst hn hm'
    exact ⟨⟨.poll, .released⟩, rfl, rfl⟩
  case ack2 =>
    subst hn hm'
    exact ⟨_, Mon.rest_tx _, State.txByte_keeps (P := (State.monOk · _)) (hs rfl) rfl⟩
  case eAck =>
    subst hn hm'
    exact ⟨_, Mon.rest_tx _, State.txByte_keeps (P := (State.monOk · _)) (hs rfl) rfl⟩
  case dOut k =>
    subst hn hm'
    refine ⟨_, Mon.rest_tx _, State.txByte_keeps (P := (State.monOk · _)) (hs rfl) ?_⟩
    split <;> rfl
  case xCsOn =>
    subst hn hm'
    exact ⟨_, Mon.next_csAssert s.xop, rfl⟩
  case xOp =>
    subst hn hm'
    exact ⟨_, ok.next_opcode _, State.evOp_monOk ok _⟩
  case xAddr k =>
    subst hn
    obtain ⟨i, rfl⟩ := hm'
    exact ⟨_, rfl, State.evAddr_monOk ok.1 k _⟩
  case xPay j =>
    subst hn
    obtain ⟨i, rfl⟩ := hm'
    exact ⟨_, rfl, State.evPay_monOk ok.1 j _⟩
  case xResp j =>
    subst hn
    obtain ⟨i, rfl⟩ := hm'
    exact ⟨_, rfl, State.evResp_monOk ok.1 j⟩
  case xCsOff =>
    subst hn
    obtain ⟨i, rfl, hl⟩ := hm'
    exact ⟨_, rfl, State.continueAt_monOk (s := s.csDeassert) ok hl⟩

theorem State.Disciplined.afterEvent {s : State} (ok : s.phaseOk) (h : s.Disciplined) : s.afterEvent.Disciplined := by
  obtain ⟨m, hm, hpos⟩ := h
  obtain ⟨-, he⟩ | ⟨-, e, hn, hperf⟩ := s.afterEvent_performs
  · rw [he]
    exact ⟨m, hm, hpos⟩
  · obtain ⟨m', hnext, hpos'⟩ := State.afterEvent_monOk ok hpos hn
    exact ⟨m', hperf.hist ▸ monitor_append hm hnext, hpos'⟩

/-- A reset cycle ends every duty (R280). -/
theorem State.Disciplined.resetStep {s : State} (h : s.Disciplined) : s.resetStep.Disciplined := by
  obtain ⟨m, hm, -⟩ := h
  exact ⟨.rest, monitor_append (m' := .rest) hm rfl, rfl⟩

theorem State.Disciplined.latch {s u : State} (h : s.Disciplined) (hu : s.latch = some u) : u.Disciplined := by
  obtain ⟨-, rfl⟩ | ⟨x, rest, -, rfl, -⟩ := State.latch_some hu
  · exact h
  · exact h

/-- Settles O44: the host's input is no event; a reset ends every duty; the event of the phase is accepted. -/
theorem stepKeepsTheBusDiscipline : Obligations.StepKeepsTheBusDiscipline := by
  intro s t hinv h hstep
  obtain ⟨u, hu, ⟨-, rfl⟩ | ⟨-, rfl⟩⟩ := step_next hstep
  · exact (h.latch hu).resetStep
  · exact (h.latch hu).afterEvent (hinv.latch hu).phase

/-- Settles O45: the invariant and the discipline hold at boot and along every run. -/
theorem everyRunIsDisciplined : Obligations.EveryRunIsDisciplined := by
  intro q ins c n t hq hc hrun
  have keeps : ∀ s t : State, s.Inv ∧ s.Disciplined → step s = .next t → t.Inv ∧ t.Disciplined := fun s t h hs =>
    ⟨stepKeepsTheInvariant s t h.1 hs, stepKeepsTheBusDiscipline s t h.1 h.2 hs⟩
  obtain ⟨-, m, hm, -⟩ := run_keeps keeps ⟨State.boot_inv ins hq hc, State.boot_disciplined q ins c⟩ hrun
  exact ⟨m, hm⟩

end Sys2Proof.Machine
end

section
/-! PROOFS. The step (R22, R43, R44, R120, R252, R253, R259): which instruction it runs, when it faults, what the host's input does,
and that it performs the event the phase names; the ports (R20, R46). -/

namespace Sys2Proof.Machine

/-! ### The host's input (R43, R253) -/

theorem State.latch_cons {s : State} {x : HostInput} {rest : List HostInput} (h : s.inputs = x :: rest) :
    s.latch = (s.setPorts x rest).deliver x.arrive := by
  simp only [State.latch, h]

theorem State.latch_fits {s : State} {x : HostInput} {rest : List HostInput} (h : s.inputs = x :: rest)
    (hq : s.rxq.length + x.arrive.length ≤ Config.rxDepth) :
    s.latch = some ((s.setPorts x rest).setRxq (s.rxq ++ x.arrive)) := by
  rw [State.latch_cons h]
  exact State.deliver_fits (s := s.setPorts x rest) hq

/-- Settles O13: `State.latch_fits`, its updates written out. -/
theorem deliveredBytesQueueInOrder : Obligations.DeliveredBytesQueueInOrder :=
  fun _ _ _ hi hq => State.latch_fits hi hq

theorem State.latch_eq_none_iff {s : State} : s.latch = none ↔
    ∃ x rest, s.inputs = x :: rest ∧ x.arrive ≠ [] ∧ Config.rxDepth < s.rxq.length + x.arrive.length := by
  cases hi : s.inputs with
  | nil => simp [State.latch_nil hi]
  | cons x rest =>
    constructor
    · intro h
      refine ⟨x, rest, rfl, fun he => ?_, Nat.lt_of_not_le fun hq => ?_⟩
      · rw [State.latch_cons hi, he] at h
        cases h
      · rw [State.latch_fits hi hq] at h
        cases h
    · rintro ⟨x', rest', he, hne, hlt⟩
      cases he
      rw [State.latch_cons hi]
      exact State.deliver_overruns (s := s.setPorts x rest) hne hlt

/-- Nothing after the host's input faults. -/
theorem State.act_ne_fault (u : State) (f : Fault) : u.act ≠ .fault f := by
  cases hr : u.rst with
  | true => simp [State.act, hr]
  | false =>
    obtain ⟨i, hi⟩ | ⟨-, -, hw⟩ | ⟨hn, -⟩ := u.fetch_cases
    · simp [State.act, hr, hi, exec_fetched hi]
    · simp [State.act, hr, hw]
    · simp [State.act, hr, hn]

theorem step_eq_fault_iff {s : State} {f : Fault} : step s = .fault f ↔ f = .rxOverrun ∧ s.latch = none := by
  unfold step
  cases s.latch with
  | none => simp
  | some u => simp [State.act_ne_fault u f]

/-- Settles O12: the input alone faults a step, and a run that has faulted stays so. -/
theorem overrunIsTheOnlyFault : Obligations.OverrunIsTheOnlyFault := by
  refine ⟨fun s f => by rw [step_eq_fault_iff, State.latch_eq_none_iff], fun s f n h => ?_⟩
  rw [run_succ, h]

/-! ### The instruction of a step (R22, R120, R121) -/

theorem step_of_latch {s u : State} (hu : s.latch = some u) : step s = u.act := by simp only [step, hu]

theorem State.act_of_fetch {u : State} {i : Instr} (hr : u.rst = false) (hf : u.fetch = .instr i) : u.act = exec i u := by
  simp [State.act, hr, hf]

theorem State.fetch_onBus {u : State} {i : Instr} (hp : u.phase.onBus = true) (hd : decodeBus u.xop = .ok i) :
    u.fetch = .instr i := by
  have hb : u.fetchBus = .instr i := by simp only [State.fetchBus, hd]
  unfold State.fetch
  cases h : u.phase with
  | xCsOn | xOp | xAddr k | xPay k | xResp k | xCsOff => exact hb
  | _ => rw [h] at hp; cases hp

/-- Settles O9: the step is `exec` of the instruction fetched, and `State.fetch` names it phase by phase. -/
theorem stepRunsDecodedInstruction : Obligations.StepRunsDecodedInstruction := by
  intro s u hu hr
  rw [step_of_latch hu]
  refine ⟨fun i hf => State.act_of_fetch hr hf, fun t q hp hq => by simp only [State.fetch, hp, hq],
    fun i hp hd => State.fetch_onBus hp hd, fun k hp => ?_, fun k hp => ?_, fun hp => ?_, fun hp => ?_, fun j hp => ?_,
    fun j hp => ?_, fun hp => ?_, fun hp => ?_, fun k hp => ?_, fun hp hq => ?idle⟩
  case idle => simp [State.act, hr, State.fetch, hp, hq]
  case refine_7 | refine_8 => obtain hp | hp | hp := hp <;> simp only [State.fetch, hp]
  all_goals simp only [State.fetch, hp]

/-- The instruction of a table word: the bus opcodes come first, then the tags (log 4). -/
def tableInstr (w : Nat) : Instr :=
  match decodeBus (BitVec.ofNat 8 w) with
  | .ok i => i
  | .error _ => decodeTag (BitVec.ofNat 8 w)

theorem decodeTableWord_eq (n w : Nat) : decodeTableWord n w = some (tableInstr w) := by
  unfold decodeTableWord tableInstr
  cases decodeBus (BitVec.ofNat 8 w) <;> rfl

/-- A placed bus instruction is at its first event with its opcode set up. -/
theorem State.placeBus_spec {i : Instr} (h : i.onTransport = false) (s : State) :
    (s.placeBus i).phase = .xCsOn ∧ (s.placeBus i).xop = opcodeOf i := by
  cases i with
  | busRdid | busRead | busWren | busPp | busCe | busRdsr => exact ⟨rfl, rfl⟩
  | _ => cases h

theorem frameBytes_head (w : Nat) : ∃ q, frameBytes w = BitVec.ofNat 8 w :: q := by
  unfold frameBytes
  split
  · exact ⟨_, rfl⟩
  · exact ⟨_, rfl⟩
  · exact ⟨_, rfl⟩

/-- What is placed is fetched. -/
theorem State.placeWord_fetch (s : State) (w : Nat) : (s.placeWord w).fetch = .instr (tableInstr w) := by
  unfold State.placeWord tableInstr
  cases hd : decodeBus (BitVec.ofNat 8 w) with
  | ok i =>
    obtain ⟨ho, ht⟩ := decodeBus_ok hd
    have hs := State.placeBus_spec ht
    exact State.fetch_onBus (by dsimp only; rw [(hs _).1]; rfl) (by dsimp only; rw [(hs _).2, decodeBus_opcodeOf ht])
  | error e =>
    obtain ⟨q, hq⟩ := frameBytes_head w
    simp only [State.fetch, State.goto_phase, State.goto_rxq, State.setRxq_rxq, hq]

/-- A placed word leaves the host quiet, so that the next step runs it. -/
theorem State.placeWord_ports (s : State) (w : Nat) : (s.placeWord w).inputs = [] ∧ (s.placeWord w).rst = false := by
  unfold State.placeWord
  cases hd : decodeBus (BitVec.ofNat 8 w) with
  | ok i => cases i <;> exact ⟨rfl, rfl⟩
  | error e => exact ⟨rfl, rfl⟩

/-- Settles O10: the instruction placed is the one fetched, and no host input comes first. -/
theorem placedWordIsRunNext : Obligations.PlacedWordIsRunNext := by
  intro s w
  obtain ⟨hi, hr⟩ := s.placeWord_ports w
  refine ⟨_, decodeTableWord_eq 8 w, s.placeWord_fetch w, ?_⟩
  refine (step_of_latch (State.latch_nil hi)).trans ?_
  exact State.act_of_fetch hr (s.placeWord_fetch w)

/-! ### Reset (R280, R281, R283) -/

/-- Settles O11: after the host's input the step is `State.resetStep`, read field by field. -/
theorem resetWinsOverEveryEvent : Obligations.ResetWinsOverEveryEvent := by
  intro s u hu hr
  have hstep : step s = .next u.resetStep := by rw [step_of_latch hu]; simp [State.act, hr]
  refine ⟨u.resetStep, hstep, rfl, rfl, rfl, rfl, hr, rfl, fun hf => ?_, fun hf => ?_, fun hc => ?_, fun hc => ?_, ?_, ?_, rfl⟩
  · simp [State.resetStep, hf]
  · simp [State.resetStep, hf]
  · simp [State.resetStep, hc]
  · simp [State.resetStep, hc]
  · simp [State.ports, State.resetStep, hr]
  · simp [State.ports, State.resetStep, hr]

/-- Settles O58: the fields of `State.reset`, and the ports they give. -/
theorem resetStateAndPorts : Obligations.ResetStateAndPorts := ⟨rfl, rfl, rfl, rfl, rfl, rfl, rfl, rfl⟩

/-! ### The one event of a step (R22, R44, R252) -/

/-- Every phase that can be blocked is outside the transactions, so the block is never refused there. -/
theorem State.fetch_of_blocked {s : State} (hb : s.blocked = true) : s.fetch ≠ .noOpcode := by
  rw [State.blocked_eq] at hb
  cases hp : s.phase <;> simp only [hp] at hb
  case idle => cases hq : s.rxq <;> simp [State.fetch, hp, hq]
  case param c k => cases c <;> simp [State.fetch, hp]
  case ack1 c => cases c <;> simp [State.fetch, hp]
  case rOut | wIn | ack2 | eAck | dOut => simp [State.fetch, hp]
  all_goals cases hb

/-- Settles O14: with no input the step is the event of the phase, which is blocked. -/
theorem blockedStepChangesNothing : Obligations.BlockedStepChangesNothing := by
  intro s hi hr hb
  rw [step_undisturbed hi hr (State.fetch_of_blocked hb)]
  obtain ⟨-, he⟩ | ⟨hf, -⟩ := s.afterEvent_performs
  · rw [he]
  · exact absurd (hb.symm.trans hf) (by decide)

/-- With `rst` low, a step that answers a next state performed the event of the phase after the host's input. -/
theorem step_performs {s u t : State} (hu : s.latch = some u) (hr : u.rst = false) (h : step s = .next t) :
    u.BlockedOrPerforms t := by
  rw [step_of_latch hu] at h
  rw [State.act_next hr h]
  exact u.afterEvent_performs

/-- Settles O15: `step_performs`, of which the history is one part. -/
theorem stepPerformsTheNamedEvent : Obligations.StepPerformsTheNamedEvent := by
  intro s u t hu hr h
  obtain hb | ⟨hb, e, hn, hperf⟩ := step_performs hu hr h
  · exact .inl hb
  · exact .inr ⟨hb, e, hn, hperf.hist⟩

theorem rxStream_append (h g : List Event) : rxStream (h ++ g) = rxStream h ++ rxStream g := List.filterMap_append

/-- The bytes taken, then those that wait. -/
def State.hostBytes (s : State) : List Byte := rxStream s.hist ++ s.rxq

/-- An event moves at most the first waiting byte to those taken. -/
theorem State.BlockedOrPerforms.hostBytes {s t : State} (h : s.BlockedOrPerforms t) : t.hostBytes = s.hostBytes := by
  obtain ⟨-, rfl⟩ | ⟨-, e, -, hperf⟩ := h
  · rfl
  · have he : rxStream [e] = e.rxByte.toList := by cases e <;> rfl
    simp only [State.hostBytes, hperf.hist, rxStream_append, he, List.append_assoc, ← hperf.rxq]

/-- The host's input adds the bytes it delivers. -/
theorem State.hostBytes_latch {s u : State} (hu : s.latch = some u) :
    u.hostBytes = s.hostBytes ++ (s.inputs.head?.map HostInput.arrive).getD [] := by
  obtain ⟨hi, rfl⟩ | ⟨x, rest, hi, rfl, -⟩ := State.latch_some hu
  · simp [hi]
  · simp [State.hostBytes, hi]

/-- Settles O16: the input adds its bytes at the end, and the event only moves one. -/
theorem hostBytesAreTakenInOrder : Obligations.HostBytesAreTakenInOrder := by
  intro s u t hu hr h
  exact (step_performs hu hr h).hostBytes.trans (State.hostBytes_latch hu)

/-! ### The ports (R20, R31, R46, R143) -/

/-- The phase's event sends a byte exactly where one is offered, and that byte. -/
theorem State.names_tx_iff (s : State) (v : Byte) : s.names (.tx v) ↔ s.offered = some v := by
  unfold State.names State.offered
  cases s.phase with
  | ack1 c => cases c <;> simp [Config.ack, eq_comm]
  | _ => simp [Config.ack, eq_comm]

/-- The phase's event takes a byte exactly where it awaits one and one is there, and that byte is the first. -/
theorem State.names_rx_iff (s : State) (b : Byte) : s.names (.rx b) ↔ s.phase.takesByte = true ∧ s.rxq.head? = some b := by
  unfold State.names
  cases s.phase with
  | param c k => cases c <;> cases s.rxq <;> simp [Phase.takesByte, eq_comm]
  | _ => cases s.rxq <;> simp [Phase.takesByte, eq_comm]

/-- Settles O59: the ports read off `State.names_tx_iff` and `State.names_rx_iff`. -/
theorem portsShowTheNextEvent : Obligations.PortsShowTheNextEvent := by
  intro s hr
  refine ⟨rfl, fun v => ?_, ?_, fun b hn => ((s.names_rx_iff b).mp hn).2⟩
  · rw [State.names_tx_iff]
    cases ho : s.offered <;> simp [State.ports, hr, ho]
  · simp only [State.names_rx_iff]
    cases hq : s.rxq <;> simp [State.ports, hr, hq]

end Sys2Proof.Machine
end

section
/-! PROOFS. The events of Read, Write and Erase, one equation per event (R141, R146, R147, R205, R210, R212, R216, R231), and the
chunks they move a transfer by (R148, R149). -/

namespace Sys2Proof.Machine

/-! ### Parameters (R140 to R142) -/

theorem exec_read_of_param {s : State} {k : Fin 8} (hp : s.phase = .param .r k) : exec .read s = .next (s.evParam .r k) := by
  simp only [exec, execRead, hp]

theorem exec_write_of_param {s : State} {k : Fin 8} (hp : s.phase = .param .w k) : exec .write s = .next (s.evParam .w k) := by
  simp only [exec, execWrite, hp]

/-- Storing a parameter byte changes `addr` and `rem` alone. -/
theorem State.storeParam_eq (s : State) (k : Fin 8) (b : Byte) :
    s.storeParam k b = { s with addr := (s.storeParam k b).addr, rem := (s.storeParam k b).rem } := by
  unfold State.storeParam
  split <;> rfl

/-- Settles O19: `State.paramByte_storeParam` says which byte of the two registers changes, `State.evParam_cons` what else. -/
theorem parameterByteLands : Obligations.ParameterByteLands := by
  intro s k b q hq
  let u := ((s.setRxq q).log (.rx b)).storeParam k b
  have hbyte : ∀ j, j < 8 → u.paramByte j = if j = k.val then b else s.paramByte j := fun _ hj =>
    State.paramByte_storeParam ((s.setRxq q).log (.rx b)) k b hj
  refine ⟨u.addr, u.rem, fun j hj => ?addr, fun j hj => ?rem, fun hp => ?read, fun hp => ?write⟩
  case addr => simpa [State.paramByte, hj] using hbyte j (by omega)
  case rem => simpa [State.paramByte] using hbyte (j + 4) (by omega)
  case read => rw [exec_read_of_param hp, State.evParam_cons hq, State.storeParam_eq]; rfl
  case write => rw [exec_write_of_param hp, State.evParam_cons hq, State.storeParam_eq]; rfl

/-- Undisturbed in `PARAM(c, k)` with a byte waiting, a step stores it. -/
theorem State.step_param {s : State} {c : Transfer} {k : Fin 8} {b : Byte} {q : List Byte} (hi : s.inputs = []) (hr : s.rst = false)
    (hp : s.phase = .param c k) (hq : s.rxq = b :: q) : step s = .next ((((s.setRxq q).log (.rx b)).storeParam k b).goto
      (if h : k.val < 7 then .param c ⟨k.val + 1, by omega⟩ else .ack1 c)) := by
  rw [step_undisturbed hi hr (by cases c <;> simp [State.fetch, hp]), ← State.evParam_cons hq]
  simp only [State.afterEvent, hp]

/-- Settles O20: eight steps of `State.step_param`; the four bytes stored over each register leave nothing of it. -/
theorem eightParameterBytesAreAddressAndLength : Obligations.EightParameterBytesAreAddressAndLength := by
  intro s c a l q hi hr hp hq
  refine (run_next (State.step_param hi hr hp hq)).trans ?_
  refine (run_next (State.step_param (k := 1) (by exact hi) (by exact hr) rfl rfl)).trans ?_
  refine (run_next (State.step_param (k := 2) (by exact hi) (by exact hr) rfl rfl)).trans ?_
  refine (run_next (State.step_param (k := 3) (by exact hi) (by exact hr) rfl rfl)).trans ?_
  refine (run_next (State.step_param (k := 4) (by exact hi) (by exact hr) rfl rfl)).trans ?_
  refine (run_next (State.step_param (k := 5) (by exact hi) (by exact hr) rfl rfl)).trans ?_
  refine (run_next (State.step_param (k := 6) (by exact hi) (by exact hr) rfl rfl)).trans ?_
  refine (run_next (State.step_param (k := 7) (by exact hi) (by exact hr) rfl rfl)).trans ?_
  have ha := setByte_four s.addr (byteOf a 0) (byteOf a 1) (byteOf a 2) (byteOf a 3)
  have hl := setByte_four s.rem (byteOf l 0) (byteOf l 1) (byteOf l 2) (byteOf l 3)
  rw [le32_leBytes32] at ha hl
  simp [State.storeParam, State.setAddr, State.setRem, State.setRxq, State.log, State.goto, ha, hl, rxTrace, leBytes32]

/-! ### The chunk loop (R146 to R149) -/

/-- Settles O21: the loop head's equations. -/
theorem loopHeadTakesTheChunk : Obligations.LoopHeadTakesTheChunk := by
  intro s
  refine ⟨fun h => ⟨State.loopHead_done .r h, State.loopHead_done .w h⟩, fun h => ⟨chunkOf s.rem, chunkOf_toNat _, ?_, ?_⟩⟩
  · rw [State.loopHead_read h]; rfl
  · rw [State.loopHead_write h]; rfl

theorem count_toWord (c : Count) : (c.setWidth 32).toNat = c.toNat := by
  have := c.isLt
  rw [BitVec.toNat_setWidth]
  omega

/-- Settles O22: the two sums of `State.advance` as numbers. -/
theorem advanceMovesByTheChunk : Obligations.AdvanceMovesByTheChunk := by
  intro s c h
  refine ⟨s.addr + s.chunk.setWidth 32, s.rem - s.chunk.setWidth 32, ?_, ?_, rfl⟩
  · rw [BitVec.toNat_add, count_toWord]
  · rw [BitVec.toNat_sub_of_le (by rw [BitVec.le_def, count_toWord]; exact h), count_toWord]

theorem State.loopHead_chunk {s : State} (h : s.rem ≠ 0) (c : Transfer) : (s.loopHead c).chunk = chunkOf s.rem := by
  cases c with
  | r => rw [State.loopHead_read h]; rfl
  | w => rw [State.loopHead_write h]; rfl

theorem word_ne_zero {v : Word} (h : v.toNat ≠ 0) : v ≠ 0 := fun e => h (by rw [e]; rfl)

/-- After `j` chunks the block is at a loop head with 256 bytes a chunk moved, or all of them. -/
theorem State.advance_iterate (s : State) (c : Transfer) {j : Nat} (hj : j ≤ chunkCount s.rem.toNat) :
    ∃ v : State, (fun t => State.advance t c)^[j] (s.loopHead c) = v.loopHead c ∧ v.rem.toNat = s.rem.toNat - 256 * j ∧
      v.addr.toNat = (s.addr.toNat + min (256 * j) s.rem.toNat) % 2 ^ 32 := by
  induction j with
  | zero => exact ⟨s, rfl, rfl, by have := s.addr.isLt; simp; omega⟩
  | succ j ih =>
    obtain ⟨v, hv, hrem, haddr⟩ := ih (by omega)
    have hlt : 256 * j < s.rem.toNat := by unfold chunkCount at hj; omega
    have hchunk : (v.loopHead c).chunk.toNat = min v.rem.toNat 256 := by
      rw [State.loopHead_chunk (word_ne_zero (by omega)), chunkOf_toNat]
    obtain ⟨a, r, ha, hr, hadv⟩ := advanceMovesByTheChunk (v.loopHead c) c (by rw [hchunk, State.loopHead_rem]; omega)
    refine ⟨{ v.loopHead c with addr := a, rem := r }, ?_, hr.trans ?_, ha.trans ?_⟩
    · rw [Function.iterate_succ_apply', hv, hadv]
    · rw [State.loopHead_rem, hchunk]; omega
    · rw [State.loopHead_addr, hchunk]; omega

/-- Settles O23: `State.advance_iterate`, where bytes are left and where none are. -/
theorem chunksCoverTheTransfer : Obligations.ChunksCoverTheTransfer := by
  intro s c j u
  refine ⟨fun hj => ?_, fun hj => ?_⟩
  · obtain ⟨v, hv, hrem, haddr⟩ := s.advance_iterate c (Nat.le_of_lt hj)
    have hlt : 256 * j < s.rem.toNat := by unfold chunkCount at hj; omega
    have hchunk : (v.loopHead c).chunk.toNat = min v.rem.toNat 256 := by
      rw [State.loopHead_chunk (word_ne_zero (by omega)), chunkOf_toNat]
    have hbus : v.addr.toNat % 2 ^ 24 = (s.addr.toNat + 256 * j) % 2 ^ 24 := by
      rw [haddr, Nat.min_eq_left (Nat.le_of_lt hlt), Nat.mod_mod_of_dvd _ (by decide)]
    simp only [u, hv, State.loopHead_rem, State.loopHead_addr, hchunk, hrem, busAddr, BitVec.toNat_setWidth, hbus, and_true,
      true_and]
    omega
  · obtain ⟨v, hv, hrem, haddr⟩ := s.advance_iterate c (Nat.le_of_eq hj)
    have hge : s.rem.toNat ≤ 256 * j := by rw [hj]; unfold chunkCount; omega
    have hz : v.rem = 0 := BitVec.eq_of_toNat_eq (by rw [hrem]; simp; omega)
    rw [Nat.min_eq_right hge] at haddr
    simp only [u, hv, State.loopHead_done c hz]
    exact ⟨hz, by cases c <;> rfl, haddr⟩

/-! ### Acknowledgement, gap and poll delay (R205, R210, R212, R216, R231) -/

theorem exec_read_of_ack1 {s : State} (hp : s.phase = .ack1 .r) : exec .read s = .next (s.evAck1 .r) := by
  simp only [exec, execRead, hp]

theorem exec_write_of_ack1 {s : State} (hp : s.phase = .ack1 .w) : exec .write s = .next (s.evAck1 .w) := by
  simp only [exec, execWrite, hp]

theorem exec_write_of_gap {s : State} (hp : s.phase = .gap .w) : exec .write s = .next (s.evGap .w) := by
  simp only [exec, execWrite, hp]

theorem exec_erase_of_gap {s : State} (hp : s.phase = .gap .e) : exec .erase s = .next (s.evGap .e) := by
  simp only [exec, execErase, hp]

theorem exec_write_of_pollWait {s : State} (hp : s.phase = .pollWait .w) : exec .write s = .next (s.evPollWait .w) := by
  simp only [exec, execWrite, hp]

theorem exec_erase_of_pollWait {s : State} (hp : s.phase = .pollWait .e) : exec .erase s = .next (s.evPollWait .e) := by
  simp only [exec, execErase, hp]

/-- Settles O24: the acknowledgement's equation for each command. -/
theorem openingAckThenLoopHead : Obligations.OpeningAckThenLoopHead := by
  intro s ht
  refine ⟨fun hp => ?read, fun hp => ?write⟩
  case read => rw [exec_read_of_ack1 hp, State.evAck1_ready ht]; rfl
  case write => rw [exec_write_of_ack1 hp, State.evAck1_ready ht]; rfl

/-- Settles O27: the free values are those that Setup writes for its `-` arguments. -/
theorem gapThenWriteClassSetup : Obligations.GapThenWriteClassSetup :=
  fun _ => ⟨fun hp => ⟨_, exec_write_of_gap hp⟩, fun hp => ⟨_, _, exec_erase_of_gap hp⟩⟩

/-- Settles O28: the free value is the one that Setup writes for its `-` argument. -/
theorem pollDelayThenNextPoll : Obligations.PollDelayThenNextPoll :=
  fun _ => ⟨fun hp => ⟨_, exec_write_of_pollWait hp⟩, fun hp => ⟨_, exec_erase_of_pollWait hp⟩⟩

end Sys2Proof.Machine
end

section
/-! PROOFS. The events of a transaction (R180), one equation per phase: what is exchanged, where the byte received lands, and which phase
is next. -/

namespace Sys2Proof.Machine

/-- In a transaction phase, the instruction of the opcode register performs the event of the phase. -/
theorem exec_onBus {s : State} {i : Instr} (ht : i.onTransport = false) (ho : s.xop = opcodeOf i) (hp : s.phase.onBus = true) :
    exec i s = .next s.afterEvent :=
  exec_fetched (State.fetch_onBus hp (by rw [ho, decodeBus_opcodeOf ht]))

/-! ### Which phase is next -/

/-- No next index: the limit or the end of the loop is reached. -/
theorem nextIndex_beyond {n limit : Nat} {i : Fin n} (h : ¬ (i.val + 1 < limit ∧ i.val + 1 < n)) : nextIndex i limit = none := by
  obtain hl | hl := not_and_or.mp h
  · exact nextIndex_last (Nat.le_of_not_lt hl)
  · exact nextIndex_end (Nat.le_of_not_lt hl)

theorem State.afterPay_eq (s : State) : s.afterPay = if s.xnresp ≠ 0 then .xResp 0 else .xCsOff := by
  simp only [State.afterPay, count_pos_iff]

theorem State.afterAddr_eq (s : State) :
    s.afterAddr = if s.xnpay ≠ 0 then .xPay 0 else if s.xnresp ≠ 0 then .xResp 0 else .xCsOff := by
  simp only [State.afterAddr, count_pos_iff, State.afterPay_eq]

theorem State.afterOp_eq (s : State) : s.afterOp =
    if s.xhasAddr then .xAddr 0 else if s.xnpay ≠ 0 then .xPay 0 else if s.xnresp ≠ 0 then .xResp 0 else .xCsOff := by
  simp only [State.afterOp, State.afterAddr_eq]

theorem State.evAddr_eq (s : State) (k : Fin 3) : s.evAddr k = (s.xfer (beByte24 s.xaddr k.val)).goto
    (if h : k.val < 2 then .xAddr ⟨k.val + 1, by omega⟩ else s.afterAddr) := by
  unfold State.evAddr
  by_cases hk : k.val < 2
  · have hi : k.val + 1 < 3 := by omega
    simp only [nextIndex_of_lt hi hi, dif_pos hk]
  · have hi : 3 ≤ k.val + 1 := by omega
    simp only [nextIndex_end hi, dif_neg hk]

theorem State.evPay_eq (s : State) (i : Fin 256) : s.evPay i = (s.xfer s.buf[i.val]).goto
    (if h : i.val + 1 < s.xnpay.toNat ∧ i.val + 1 < 256 then .xPay ⟨i.val + 1, h.2⟩ else s.afterPay) := by
  unfold State.evPay
  split_ifs with h
  · simp only [nextIndex_of_lt h.2 h.1]
  · simp only [nextIndex_beyond h]

theorem State.evResp_eq (s : State) (i : Fin 256) : s.evResp i = ((s.xfer 0x00#8).capture i (s.answer 0x00#8)).goto
    (if h : i.val + 1 < s.xnresp.toNat ∧ i.val + 1 < 256 then .xResp ⟨i.val + 1, h.2⟩ else .xCsOff) := by
  unfold State.evResp
  split_ifs with h
  · simp only [nextIndex_of_lt h.2 h.1]
  · simp only [nextIndex_beyond h]

/-! ### The continuations (R33) -/

section
variable {s : State}

theorem State.continueAt_rdDone (h : s.xret = .rdDone) : s.continueAt = s.goto (.rOut 0) := by simp only [State.continueAt, h]

theorem State.continueAt_wWrenDone (h : s.xret = .wWrenDone) : s.continueAt = s.goto (.gap .w) := by
  simp only [State.continueAt, h]

theorem State.continueAt_wPpDone (h : s.xret = .wPpDone) : s.continueAt = s.setupRdsr .w := by simp only [State.continueAt, h]

theorem State.continueAt_eWrenDone (h : s.xret = .eWrenDone) : s.continueAt = s.goto (.gap .e) := by
  simp only [State.continueAt, h]

theorem State.continueAt_eCeDone (h : s.xret = .eCeDone) : s.continueAt = s.setupRdsr .e := by simp only [State.continueAt, h]

theorem State.continueAt_dIdDone (h : s.xret = .dIdDone) :
    s.continueAt = (s.setCap (decodeCapacity s.jedec[0] s.jedec[1] s.jedec[2])).goto (.dOut 0) := by
  simp only [State.continueAt, h]

theorem State.continueAt_pollDone {c : WriteClass} (h : s.xret = .pollDone c) : s.continueAt = s.pollDone c := by
  simp only [State.continueAt, h]

end

/-! ### The instructions -/

/-- Settles O31: both phases are transaction phases of the opcode's instruction. -/
theorem transactionOpens : Obligations.TransactionOpens := by
  intro s i ht ho
  refine ⟨fun hp => ?select, fun hp => ?opcode⟩
  case select =>
    rw [exec_onBus ht ho (by rw [hp]; rfl)]
    simp only [State.afterEvent, hp]
    rfl
  case opcode =>
    rw [exec_onBus ht ho (by rw [hp]; rfl), ← State.afterOp_eq]
    simp only [State.afterEvent, hp]
    rfl

/-- Settles O32: the byte is `beByte24`, which is that base-256 digit of the address. -/
theorem addressBytesGoOut : Obligations.AddressBytesGoOut := by
  intro s i k hi ho hp
  have ht : i.onTransport = false := by obtain rfl | rfl := hi <;> rfl
  have hdigit : (beByte24 s.xaddr k.val).toNat = s.xaddr.toNat / 256 ^ (2 - k.val) % 256 := by
    rw [beByte24_toNat, Nat.pow_mul]
  refine ⟨beByte24 s.xaddr k.val, hdigit, ?_⟩
  rw [exec_onBus ht ho (by rw [hp]; rfl), ← State.afterAddr_eq]
  simp only [State.afterEvent, hp, State.evAddr_eq]
  rfl

/-- Settles O33: the event's equation. -/
theorem payloadBytesGoOut : Obligations.PayloadBytesGoOut := by
  intro s i ho hp hmax
  rw [exec_onBus (i := .busPp) rfl ho (by rw [hp]; rfl), ← State.afterPay_eq]
  simp only [State.afterEvent, hp, State.evPay_eq]
  rfl

/-- Settles O34: the event's equation, with the byte captured where `xdst` says. -/
theorem responseBytesLand : Obligations.ResponseBytesLand := by
  intro s i hp hmax v u
  have hev : ∀ j : Instr, j.onTransport = false → s.xop = opcodeOf j → exec j s = .next (s.evResp i) := fun _ ht ho => by
    rw [exec_onBus ht ho (by rw [hp]; rfl)]
    simp only [State.afterEvent, hp]
  refine ⟨fun ho hd h3 => ?jedec, fun ho hd => ?buf, fun ho hd => ?sr⟩
  case jedec =>
    rw [hev .busRdid rfl ho, State.evResp_eq, State.capture_jedec_of (s := s.xfer 0x00#8) hd]
    simp only [State.setJedec, dif_pos h3]
    rfl
  case buf => rw [hev .busRead rfl ho, State.evResp_eq, State.capture_buf_of (s := s.xfer 0x00#8) hd]; rfl
  case sr => rw [hev .busRdsr rfl ho, State.evResp_eq, State.capture_sr_of (s := s.xfer 0x00#8) hd]; rfl

/-- Settles O35: the release, then `State.continueAt` at each continuation. -/
theorem releaseThenContinuation : Obligations.ReleaseThenContinuation := by
  intro s hp u
  have hev : ∀ (j : Instr) {v : State}, j.onTransport = false → s.xop = opcodeOf j → u.continueAt = v → exec j s = .next v := by
    rintro j v ht ho rfl
    rw [exec_onBus ht ho (by rw [hp]; rfl)]
    simp only [State.afterEvent, hp]
    rfl
  have hpoll : ∀ c, s.xret = .pollDone c → u.continueAt = u.pollDone c := fun _ hr => State.continueAt_pollDone hr
  exact ⟨fun ho hr => hev .busRdid rfl ho (State.continueAt_dIdDone hr),
    fun ho hr => hev .busRead rfl ho (State.continueAt_rdDone hr),
    fun ho hr => hev .busWren rfl ho (State.continueAt_wWrenDone hr),
    fun ho hr => hev .busWren rfl ho (State.continueAt_eWrenDone hr),
    fun ho hr => ⟨_, hev .busPp rfl ho (State.continueAt_wPpDone hr)⟩,
    fun ho hr => ⟨_, hev .busCe rfl ho (State.continueAt_eCeDone hr)⟩,
    fun ho c hr hb => hev .busRdsr rfl ho ((hpoll c hr).trans (State.pollDone_busy c hb)),
    fun ho hr hb => hev .busRdsr rfl ho ((hpoll .w hr).trans (State.pollDone_write hb)),
    fun ho hr hb => hev .busRdsr rfl ho ((hpoll .e hr).trans (State.pollDone_erase hb))⟩

end Sys2Proof.Machine
end

section
/-! PROOFS. What the host commands leave unchanged (R141, R146, R147): one frame for the events of all five, from which those of Read
and Write and of Erase and Detect are read. -/

namespace Sys2Proof.Machine

/-- What the event of a command's own phase leaves of `s` in `t`. -/
structure State.CommandFrame (s t : State) : Prop where
  jedec : t.jedec = s.jedec
  cap : t.cap = s.cap
  sr : t.sr = s.sr
  csActive : t.csActive = s.csActive
  chip : t.chip = s.chip
  rst : t.rst = s.rst
  txReady : t.txReady = s.txReady
  inputs : t.inputs = s.inputs
  /-- `buf` changes where a payload byte comes in, and only at its index. -/
  buf : ∀ j : Fin 256, s.phase ≠ .wIn j → t.buf[j.val] = s.buf[j.val]
  /-- `addr` and `rem` change in `PARAM` and at the end of a Read chunk. -/
  transfer : (∀ c k, s.phase ≠ .param c k) → (∀ i, s.phase ≠ .rOut i) → t.addr = s.addr ∧ t.rem = s.rem
  /-- The queue changes where a byte is taken. -/
  rxq : (∀ c k, s.phase ≠ .param c k) → (∀ j, s.phase ≠ .wIn j) → s.phase ≠ .idle → t.rxq = s.rxq
  /-- `chunk` changes at a loop head. -/
  chunk : (∀ c, s.phase ≠ .ack1 c) → (∀ i, s.phase ≠ .rOut i) → t.chunk = s.chunk
  /-- A Read byte that is not accepted or not the last leaves the transfer as it was. -/
  readByte : ∀ i : Fin 256, s.phase = .rOut i → (s.txReady = false ∨ (i.val + 1 < s.chunk.toNat ∧ i.val + 1 < 256)) →
    t.addr = s.addr ∧ t.rem = s.rem ∧ t.chunk = s.chunk
  /-- A loop head that is not reached, or finds nothing left, takes no chunk. -/
  ack : ∀ c, s.phase = .ack1 c → (s.txReady = false ∨ s.rem = 0) → t.chunk = s.chunk
  /-- The descriptor changes where a transaction is set up. -/
  descriptor : t.phase ≠ .xCsOn → t.sameDescriptor s

theorem State.CommandFrame.refl (s : State) : s.CommandFrame s := by constructor <;> simp [State.sameDescriptor]

@[simp] theorem State.setup_phase (s : State) (op : Byte) (a : Option BusAddr) (p r : Count) (d : Option Dst) (t : Ret) :
    (s.setup op a p r d t).phase = .xCsOn := rfl

@[simp] theorem State.setupRdid_phase (s : State) : s.setupRdid.phase = .xCsOn := rfl
@[simp] theorem State.setupRead_phase (s : State) : s.setupRead.phase = .xCsOn := rfl
@[simp] theorem State.setupWren_phase (s : State) (c : WriteClass) : (s.setupWren c).phase = .xCsOn := rfl
@[simp] theorem State.setupPp_phase (s : State) : s.setupPp.phase = .xCsOn := rfl
@[simp] theorem State.setupCe_phase (s : State) : s.setupCe.phase = .xCsOn := rfl
@[simp] theorem State.setupRdsr_phase (s : State) (c : WriteClass) : (s.setupRdsr c).phase = .xCsOn := rfl

/-- The loop head changes the descriptor only where it sets up a transaction. -/
theorem State.loopHead_descriptor (s : State) (c : Transfer) (h : (s.loopHead c).phase ≠ .xCsOn) :
    (s.loopHead c).sameDescriptor s := by
  revert h
  by_cases hr : s.rem = 0
  · rw [State.loopHead_done c hr]; simp [State.sameDescriptor]
  · cases c with
    | r => rw [State.loopHead_read hr]; simp
    | w => rw [State.loopHead_write hr]; simp [State.sameDescriptor]

/-! ### The events, one by one -/

section
variable {s : State}

theorem State.dispatched_frame (hp : s.phase = .idle) (b : Byte) (q : List Byte) (i : Instr) :
    s.CommandFrame (((s.setRxq q).log (.rx b)).dispatched i) := by
  cases i <;> constructor <;> simp [State.sameDescriptor, hp, State.dispatched]

theorem State.evParam_frame {c : Transfer} {k : Fin 8} (hp : s.phase = .param c k) : s.CommandFrame (s.evParam c k) := by
  cases hq : s.rxq with
  | nil => rw [State.evParam_nil hq]; exact .refl s
  | cons b q =>
    rw [State.evParam_cons hq, State.storeParam_eq]
    constructor <;> simp [State.sameDescriptor, hp]

theorem State.evAck1_frame {c : Transfer} (hp : s.phase = .ack1 c) : s.CommandFrame (s.evAck1 c) := by
  cases ht : s.txReady with
  | false => rw [State.evAck1, State.txByte_blocked ht]; exact .refl s
  | true =>
    rw [State.evAck1_ready ht]
    by_cases hr : s.rem = 0#32
    · rw [State.loopHead_done (s := s.log _) c hr]
      constructor <;> simp [State.sameDescriptor, hp]
    · cases c with
      | r => rw [State.loopHead_read (s := s.log _) hr]; constructor <;> simp [State.sameDescriptor, hp, ht, hr]
      | w => rw [State.loopHead_write (s := s.log _) hr]; constructor <;> simp [State.sameDescriptor, hp, ht, hr]

theorem State.evROut_ready (ht : s.txReady = true) (i : Fin 256) : s.evROut i =
    if h : i.val + 1 < s.chunk.toNat ∧ i.val + 1 < 256 then (s.log (.tx s.buf[i.val])).goto (.rOut ⟨i.val + 1, h.2⟩)
    else (s.log (.tx s.buf[i.val])).advance .r := by
  split_ifs with h
  · exact State.evROut_inner ht h.2 h.1
  · unfold State.evROut
    rw [State.txByte_ready ht]
    simp only [State.log_chunk, nextIndex_beyond h]

theorem State.evROut_frame {i : Fin 256} (hp : s.phase = .rOut i) : s.CommandFrame (s.evROut i) := by
  cases ht : s.txReady with
  | false => rw [State.evROut, State.txByte_blocked ht]; exact .refl s
  | true =>
    rw [State.evROut_ready ht]
    split_ifs with hl
    · constructor <;> simp [State.sameDescriptor, hp]
    · constructor
      case readByte =>
        rintro j hj (hf | hlt)
        · exact absurd (ht.symm.trans hf) (by decide)
        · cases hp.symm.trans hj
          exact absurd hlt hl
      case descriptor => exact State.loopHead_descriptor _ .r
      all_goals simp [hp]

theorem State.evWIn_cons {b : Byte} {q : List Byte} (hq : s.rxq = b :: q) (i : Fin 256) : s.evWIn i =
    if h : i.val + 1 < s.chunk.toNat ∧ i.val + 1 < 256 then
      (((s.setRxq q).log (.rx b)).setBuf i b).goto (.wIn ⟨i.val + 1, h.2⟩)
    else (((s.setRxq q).log (.rx b)).setBuf i b).setupWren .w := by
  split_ifs with h
  · exact State.evWIn_inner hq h.2 h.1
  · unfold State.evWIn
    rw [State.rxByte_cons hq]
    simp only [State.setBuf_chunk, State.log_chunk, State.setRxq_chunk, nextIndex_beyond h]

theorem State.evWIn_frame {i : Fin 256} (hp : s.phase = .wIn i) : s.CommandFrame (s.evWIn i) := by
  cases hq : s.rxq with
  | nil => rw [State.evWIn_nil hq]; exact .refl s
  | cons b q =>
    have hbuf : ∀ j : Fin 256, s.phase ≠ .wIn j → (s.setBuf i b).buf[j.val] = s.buf[j.val] := fun j hj =>
      Vector.getElem_set_ne i.isLt j.isLt fun e => hj (by rw [hp, Fin.ext e])
    rw [State.evWIn_cons hq]
    split_ifs
    · constructor
      case buf => exact hbuf
      all_goals simp [State.sameDescriptor, hp]
    · constructor
      case buf => exact hbuf
      all_goals simp [State.sameDescriptor, hp]

theorem State.evGap_frame {c : WriteClass} (hp : s.phase = .gap c) : s.CommandFrame (s.evGap c) := by
  cases c <;> constructor <;> simp [State.sameDescriptor, hp, State.evGap]

theorem State.evPollWait_frame {c : WriteClass} (hp : s.phase = .pollWait c) : s.CommandFrame (s.evPollWait c) := by
  constructor <;> simp [State.sameDescriptor, hp, State.evPollWait]

theorem State.evFinalAck_frame (hp : s.phase = .ack2 ∨ s.phase = .eAck) : s.CommandFrame s.evFinalAck := by
  cases ht : s.txReady with
  | false => rw [State.evFinalAck, State.txByte_blocked ht]; exact .refl s
  | true =>
    rw [State.evFinalAck_ready ht]
    obtain hp | hp := hp <;> constructor <;> simp [State.sameDescriptor, hp]

theorem State.evDOut_frame {k : Fin 7} (hp : s.phase = .dOut k) : s.CommandFrame (s.evDOut k) := by
  cases ht : s.txReady with
  | false => rw [State.evDOut, State.txByte_blocked ht]; exact .refl s
  | true => rw [State.evDOut_ready ht]; constructor <;> simp [State.sameDescriptor, hp]

end

/-- The frame of every event outside the transactions. -/
theorem State.afterEvent_frame {s : State} (h : s.phase.onBus = false) : s.CommandFrame s.afterEvent := by
  cases hp : s.phase <;> simp only [State.afterEvent, hp]
  case idle =>
    cases hq : s.rxq with
    | nil => exact .refl s
    | cons b q => exact State.dispatched_frame hp b q _
  case param c k => exact State.evParam_frame hp
  case ack1 c => exact State.evAck1_frame hp
  case rOut i => exact State.evROut_frame hp
  case wIn i => exact State.evWIn_frame hp
  case gap c => exact State.evGap_frame hp
  case pollWait c => exact State.evPollWait_frame hp
  case ack2 => exact State.evFinalAck_frame (.inl hp)
  case eAck => exact State.evFinalAck_frame (.inr hp)
  case dOut k => exact State.evDOut_frame hp
  all_goals rw [hp] at h; exact absurd (show true = false from h) Bool.noConfusion

/-! ### Which phases are a command's own -/

theorem execRead_phase {s t : State} (h : execRead s = .next t) : s.phase.onBus = false ∧ ∀ i, s.phase ≠ .wIn i := by
  obtain ⟨hp, -⟩ | ⟨k, hp, -⟩ | ⟨hp, -⟩ | ⟨i, hp, -⟩ := execRead_next h <;> rw [hp] <;> exact ⟨rfl, nofun⟩

theorem execWrite_phase {s t : State} (h : execWrite s = .next t) : s.phase.onBus = false := by
  obtain ⟨hp, -⟩ | ⟨k, hp, -⟩ | ⟨hp, -⟩ | ⟨i, hp, -⟩ | ⟨hp, -⟩ | ⟨hp, -⟩ | ⟨hp, -⟩ := execWrite_next h <;> rw [hp] <;> rfl

/-- The phases of Erase and Detect: outside the transactions, and none of a transfer. -/
def Phase.short (p : Phase) : Prop :=
  p.onBus = false ∧ (∀ c k, p ≠ .param c k) ∧ (∀ c, p ≠ .ack1 c) ∧ (∀ i, p ≠ .rOut i) ∧ ∀ i, p ≠ .wIn i

theorem execErase_phase {s t : State} (h : execErase s = .next t) : s.phase.short := by
  obtain ⟨hp, -⟩ | ⟨hp, -⟩ | ⟨hp, -⟩ | ⟨hp, -⟩ := execErase_next h <;> rw [hp] <;> exact ⟨rfl, nofun, nofun, nofun, nofun⟩

theorem execDetect_phase {s t : State} (h : execDetect s = .next t) : s.phase.short := by
  obtain ⟨hp, -⟩ | ⟨k, hp, -⟩ := execDetect_next h <;> rw [hp] <;> exact ⟨rfl, nofun, nofun, nofun, nofun⟩

/-- Taking a tag and going on to a phase changes nothing but queue, history and phase. -/
theorem State.takeTag_goto {s t : State} {i : Instr} {p : Phase} (h : s.takeTag i (fun s => s.goto p) = .next t) :
    { t with phase := s.phase, rxq := s.rxq, hist := s.hist } = s := by
  obtain ⟨-, rfl⟩ | ⟨b, q, -, -, rfl⟩ := State.takeTag_next h <;> rfl

/-- Settles O38: the frame of the events, where a Read is never in `W_IN`; in IDLE a tag is taken, no more. -/
theorem transferCommandFrame : Obligations.TransferCommandFrame := by
  intro s t h
  have hbus : s.phase.onBus = false := h.elim (fun h => (execRead_phase h).1) execWrite_phase
  have hf : s.CommandFrame t := (h.elim exec_next exec_next : t = s.afterEvent) ▸ State.afterEvent_frame hbus
  have hread : exec .read s = .next t → t.buf = s.buf := fun hr =>
    Vector.ext fun j hj => hf.buf ⟨j, hj⟩ ((execRead_phase hr).2 _)
  have hidle : s.phase = .idle → { t with phase := s.phase, rxq := s.rxq, hist := s.hist } = s := fun hp => by
    obtain h | h := h
    · simp only [exec, execRead, hp] at h
      exact hp ▸ State.takeTag_goto h
    · simp only [exec, execWrite, hp] at h
      exact hp ▸ State.takeTag_goto h
  exact ⟨hf.jedec, hf.cap, hf.sr, hf.csActive, hf.chip, hf.rst, hf.txReady, hf.inputs, hread, hf.buf, hf.transfer, hf.rxq, hf.chunk,
    hf.readByte, hf.ack, hf.descriptor, hidle⟩

/-- Settles O39: the frame of the events, where no phase of Erase or Detect is one of a transfer; an unknown tag is taken, no more. -/
theorem shortCommandFrame : Obligations.ShortCommandFrame := by
  refine fun s t => ⟨fun h => ?_, fun b h => ?_⟩
  · obtain ⟨hbus, hparam, hack, hout, hin⟩ : s.phase.short := h.elim execErase_phase execDetect_phase
    have hf : s.CommandFrame t := (h.elim exec_next exec_next : t = s.afterEvent) ▸ State.afterEvent_frame hbus
    obtain ⟨haddr, hrem⟩ := hf.transfer hparam hout
    have hbuf : t.buf = s.buf := Vector.ext fun j hj => hf.buf ⟨j, hj⟩ (hin _)
    exact ⟨haddr, hrem, hf.chunk hack hout, hbuf, hf.jedec, hf.cap, hf.sr, hf.csActive, hf.chip, hf.rst, hf.txReady, hf.inputs,
      hf.rxq hparam hin, hf.descriptor⟩
  · obtain ⟨hp, ht⟩ := execUnknown_next h
    obtain ⟨-, rfl⟩ | ⟨c, q, -, -, rfl⟩ := State.takeTag_next ht
    · rfl
    · rw [State.goto_eq_self (s := (s.setRxq q).log (.rx c)) hp]
      rfl

end Sys2Proof.Machine
end

section
/-! PROOFS. What the bus instructions leave unchanged (R180), and that the flash array of a `RefChip` changes only at the release of a
Page Program or a Chip Erase (D23). -/

namespace Sys2Proof.Machine

/-! ### Which instruction a transaction is -/

/-- The bus instruction with an opcode is one. -/
theorem opcodeOf_injective {i j : Instr} (hi : i.onTransport = false) (hj : j.onTransport = false)
    (h : opcodeOf i = opcodeOf j) : i = j := by
  have hd := decodeBus_opcodeOf hi
  rw [h, decodeBus_opcodeOf hj] at hd
  exact (Except.ok.inj hd).symm

theorem State.descriptorOk.rdid_of_dIdDone {s : State} (h : s.descriptorOk) (hr : s.xret = .dIdDone) :
    s.xop = opcodeOf .busRdid := by
  simp only [State.descriptorOk, hr, reduceCtorEq, and_false, false_and, or_false] at h
  exact h.1

theorem State.descriptorOk.rdsr_of_pollDone {s : State} {c : WriteClass} (h : s.descriptorOk) (hr : s.xret = .pollDone c) :
    s.xop = opcodeOf .busRdsr := by
  simp only [State.descriptorOk, hr, reduceCtorEq, and_false, false_and, false_or] at h
  exact h.1

/-- Where response bytes land tells which transaction it is. -/
theorem State.descriptorOk.of_capture {s : State} (h : s.descriptorOk) (hn : s.xnresp ≠ 0) :
    (s.xdst = .jedec ∧ s.xop = opcodeOf .busRdid) ∨ (s.xdst = .buf ∧ s.xop = opcodeOf .busRead) ∨
      (s.xdst = .sr ∧ s.xop = opcodeOf .busRdsr) := by
  obtain ⟨ho, -, -, -, hd, -⟩ | ⟨ho, -, -, -, -, hd, -⟩ | ⟨-, -, -, h0, -⟩ | ⟨-, -, -, -, h0, -⟩ | ⟨-, -, -, h0, -⟩ |
    ⟨ho, -, -, -, hd, -⟩ := h
  case inl => exact .inl ⟨hd, ho⟩
  case inr.inl => exact .inr (.inl ⟨hd, ho⟩)
  case inr.inr.inr.inr.inr => exact .inr (.inr ⟨hd, ho⟩)
  all_goals exact absurd h0 hn

/-! ### The registers -/

/-- The transfer moves on at a continuation only after a poll of Write that read bit 0 clear. -/
theorem State.continueAt_transfer {s : State} (h : s.xret ≠ .pollDone .w ∨ s.busyFlag = true) :
    s.continueAt.addr = s.addr ∧ s.continueAt.rem = s.rem ∧ s.continueAt.chunk = s.chunk := by
  cases hr : s.xret with
  | pollDone c =>
    rw [State.continueAt_pollDone hr]
    cases hb : s.busyFlag with
    | true => rw [State.pollDone_busy c hb]; exact ⟨rfl, rfl, rfl⟩
    | false =>
      cases c with
      | w => exact (h.elim (absurd hr) fun hb' => Bool.false_ne_true (hb.symm.trans hb')).elim
      | e => rw [State.pollDone_erase hb]; exact ⟨rfl, rfl, rfl⟩
  | _ => simp [State.continueAt, hr]

theorem State.continueAt_cap {s : State} (h : s.xret ≠ .dIdDone) : s.continueAt.cap = s.cap := by
  cases hr : s.xret with
  | dIdDone => exact absurd hr h
  | _ => simp [State.continueAt, hr]

/-- Settles O40: an event before the release changes only the register its response byte lands in, which the descriptor tells; the
release only what its continuation does. -/
theorem busInstructionFrame : Obligations.BusInstructionFrame := by
  intro s t i hinv ht hstep
  have ok := hinv.phase
  rw [exec_bus ht] at hstep
  obtain ⟨ho, hcase⟩ := State.transact_next hstep
  have same : ∀ {j : Instr}, j.onTransport = false → s.xop = opcodeOf j → i = j := fun hj hx =>
    opcodeOf_injective ht hj (ho.symm.trans hx)
  obtain ⟨hp, rfl⟩ | ⟨hp, rfl⟩ | ⟨k, hp, rfl⟩ | ⟨j, hp, rfl⟩ | ⟨j, hp, rfl⟩ | ⟨hp, rfl⟩ := hcase
  · simp [State.evCsOn]
  · simp [State.evOp]
  · simp [State.evAddr]
  · simp [State.evPay]
  · simp only [State.phaseOk, hp] at ok
    have hne : ∀ k : Fin 256, s.phase ≠ .xResp k → j ≠ k := fun k hk e => hk (e ▸ hp)
    obtain ⟨hd, hx⟩ | ⟨hd, hx⟩ | ⟨hd, hx⟩ := ok.1.of_capture ((count_pos_iff _).1 (by omega))
    · obtain rfl := same rfl hx
      simp [State.evResp, State.capture_jedec_of (s := s.xfer 0x00#8) hd]
    · obtain rfl := same rfl hx
      have hbuf : ∀ k : Fin 256, s.phase ≠ .xResp k → (s.evResp j).buf[k.val] = s.buf[k.val] := fun k hk =>
        State.capture_buf_ne (s.xfer 0x00#8) _ (hne k hk)
      simpa [State.evResp, State.capture_buf_of (s := s.xfer 0x00#8) hd] using hbuf
    · obtain rfl := same rfl hx
      simp [State.evResp, State.capture_sr_of (s := s.xfer 0x00#8) hd]
  · simp only [State.phaseOk, hp] at ok
    have hmove : s.xret ≠ .pollDone .w ∨ s.sr.getLsbD 0 = true →
        s.evCsOff.addr = s.addr ∧ s.evCsOff.rem = s.rem ∧ s.evCsOff.chunk = s.chunk := fun h =>
      State.continueAt_transfer (s := s.csDeassert) h
    have hcap : i ≠ .busRdid → s.evCsOff.cap = s.cap := fun hi =>
      State.continueAt_cap (s := s.csDeassert) fun hr => hi (same rfl (ok.rdid_of_dIdDone hr))
    have hpoll : i ≠ .busRdsr → s.evCsOff.addr = s.addr ∧ s.evCsOff.rem = s.rem ∧ s.evCsOff.chunk = s.chunk := fun hi =>
      hmove (.inl fun hr => hi (same rfl (ok.rdsr_of_pollDone hr)))
    have hsr : s.evCsOff.sr = s.sr := State.continueAt_sr _
    have hjedec : s.evCsOff.jedec = s.jedec := State.continueAt_jedec _
    have hbuf : s.evCsOff.buf = s.buf := State.continueAt_buf _
    exact ⟨State.continueAt_rst _, State.continueAt_txReady _, State.continueAt_inputs _, State.continueAt_rxq _, fun _ => hbuf,
      fun hi => ⟨hjedec, hcap hi⟩, fun hi => ⟨hsr, hpoll hi⟩, fun j _ => by rw [hbuf], fun h => absurd hp h, hmove⟩

/-! ### The flash array (D23) -/

/-- A transaction that spells a bus command has its opcode. -/
theorem decodeBusCmd_instr {op : Byte} {bs : List Byte} {c : BusCmd} (h : decodeBusCmd (op :: bs) = .ok c) :
    decodeBus op = .ok c.instr := by
  unfold decodeBusCmd at h
  cases hd : decodeBus op with
  | error e => simp [hd] at h
  | ok i =>
    cases i <;> simp only [hd] at h
    case busRead =>
      split at h
      · split at h <;> cases h
        rfl
      · cases h
    case busPp =>
      split at h <;> cases h
      rfl
    case busRdid | busRdsr | busWren | busCe =>
      split at h <;> cases h
      rfl
    all_goals cases h

/-- An instruction that answers in a transaction phase is the one of the opcode register. -/
theorem exec_onBus_instr {s t : State} {i : Instr} (h : exec i s = .next t) (hp : s.phase.onBus = true) :
    i.onTransport = false ∧ s.xop = opcodeOf i := by
  have off : s.phase.onBus ≠ false := by rw [hp]; decide
  cases i with
  | read => exact absurd (execRead_phase h).1 off
  | write => exact absurd (execWrite_phase h) off
  | erase => exact absurd (execErase_phase h).1 off
  | detect => exact absurd (execDetect_phase h).1 off
  | unknown b => exact absurd (by rw [(execUnknown_next h).1]; rfl) off
  | busRdid | busRead | busWren | busPp | busCe | busRdsr =>
    rw [exec_bus rfl] at h
    exact ⟨rfl, (State.transact_next h).1⟩

/-- Before the release the array is as it was. -/
theorem Chip.flash_after (c : Chip) (h : List Event) {e : Event} (he : e ≠ .csDeassert) (x : Nat) :
    (c.after h e).flash x = c.flash x := by
  cases e with
  | csAssert => exact c.flash_select x
  | xfer o i => exact c.flash_exchange h o x
  | csDeassert => exact absurd rfl he
  | _ => rfl

theorem State.afterEvent_flash {s : State} (hp : s.phase ≠ .xCsOff) (x : Nat) : s.afterEvent.chip.flash x = s.chip.flash x := by
  obtain ⟨-, he⟩ | ⟨-, e, hn, hperf⟩ := s.afterEvent_performs
  · rw [he]
  · rw [hperf.chip]
    refine Chip.flash_after _ _ (fun he => ?_) x
    subst he
    unfold State.names at hn
    split at hn <;> simp_all

theorem State.afterEvent_chip_of_xCsOff {s : State} (hp : s.phase = .xCsOff) : s.afterEvent.chip = s.chip.deselect s.hist := by
  simp only [State.afterEvent, hp]
  exact State.continueAt_chip _

/-- At the release a chip has received the transaction's bytes. -/
theorem State.Inv.cmd_of_xCsOff {s : State} (h : s.Inv) (hp : s.phase = .xCsOff) {c : RefChip} (hc : s.chip = .ref c) :
    c.cmd = s.mosiBytes := by
  have hs : s.sent = s.mosiBytes := by simp only [State.sent, hp]
  have hk := h.chip
  simp only [State.chipOk, hc] at hk
  rw [← hs]
  exact hk (by rw [hp]; rfl)

/-- The bytes of a Page Program's transaction are those of its format. -/
theorem State.descriptorOk.mosiBytes_program {s : State} (h : s.descriptorOk) (ho : s.xop = opcodeOf .busPp) :
    s.mosiBytes = encodeBusCmd (.program s.xaddr s.payload) := by
  obtain ⟨h', -⟩ | ⟨h', -⟩ | ⟨h', -⟩ | ⟨h', ha, -, -, hn, -⟩ | ⟨h', -⟩ | ⟨h', -⟩ := h
  case inr.inr.inr.inl => simp [State.mosiBytes, h', State.addrBytes_of_hasAddr ha, hn, encodeBusCmd]
  all_goals exact absurd (h'.symm.trans ho) (by decide)

/-- Settles O41: only the release acts on the array, and `RefChip.perform_mem` says which transactions do. -/
theorem flashChangesOnlyByWriteClass : Obligations.FlashChangesOnlyByWriteClass := by
  intro s t i hinv hstep x
  obtain rfl := exec_next hstep
  by_cases hp : s.phase = .xCsOff
  case neg => exact ⟨fun _ _ => State.afterEvent_flash hp x, fun _ => State.afterEvent_flash hp x, fun _ _ _ _ => State.afterEvent_flash hp x⟩
  rw [State.afterEvent_chip_of_xCsOff hp]
  obtain ⟨ht, ho⟩ := exec_onBus_instr hstep (by rw [hp]; rfl)
  have ok : s.descriptorOk := by have h := hinv.phase; simpa only [State.phaseOk, hp] using h
  refine ⟨fun hpp hce => ?other, fun h => absurd hp h, fun hpp c hc hx => ?program⟩
  case other =>
    cases hc : s.chip with
    | oracle p => rfl
    | steady p b => rfl
    | ref c =>
      have hcmd := hinv.cmd_of_xCsOff hp hc
      have hinstr : ∀ b, decodeBusCmd c.cmd = .ok b → i = b.instr := fun b hb => by
        have hd := decodeBus_opcodeOf ht
        rw [hcmd, State.mosiBytes] at hb
        rw [← ho, decodeBusCmd_instr hb] at hd
        exact (Except.ok.inj hd).symm
      refine congrArg some (RefChip.peek_congr ?_ (c.deselect_capLog _) x)
      rw [RefChip.deselect_mem]
      obtain hm | ⟨a, p, hr, -⟩ | ⟨hr, -⟩ := c.perform_mem s.hist.length (decodeBusCmd c.cmd)
      · exact hm
      · exact absurd (hinstr _ hr) hpp
      · exact absurd (hinstr _ hr) hce
  case program =>
    subst hpp
    have hcmd : decodeBusCmd c.cmd = .ok (.program s.xaddr s.payload) := by
      rw [hinv.cmd_of_xCsOff hp hc, ok.mosiBytes_program ho, decodeBusCmd_program]
    have hwf : Memory.wf c.mem = true := by have h := hinv.array; rwa [hc] at h
    rw [hc]
    refine congrArg some ?_
    obtain hm | ⟨a, p, hr, -, hm⟩ | ⟨hr, -⟩ := c.perform_mem s.hist.length (decodeBusCmd c.cmd)
    · exact RefChip.peek_congr (by rw [RefChip.deselect_mem, hm]) (c.deselect_capLog _) x
    · rw [hcmd] at hr
      cases hr
      refine (RefChip.peek_congr (d := c.programFrom s.xaddr 0 s.payload) (by rw [RefChip.deselect_mem, hm]) (by simp) x).trans ?_
      refine RefChip.peek_programFrom_ne _ _ _ _ hwf fun j _ hj => hx j ?_
      simp [State.payload] at hj
      omega
    · rw [hcmd] at hr
      cases hr

end Sys2Proof.Machine
end

section
/-! PROOFS. A whole transaction (R180, R99): from X_CSON, on a chip whose answers are listed, the select, the bytes of the descriptor one
after another, the release and the continuation. -/

namespace Sys2Proof.Machine

/-! ### What a Setup makes the transaction send -/

/-- Settles O36: each descriptor's fields in the bytes of the transaction. -/
theorem setupSpellsTheTransaction : Obligations.SetupSpellsTheTransaction := by
  intro s c hmax
  refine ⟨rfl, rfl, rfl, ?program, rfl, rfl⟩
  case program => exact congrArg (0x02#8 :: ·) (List.append_nil _)

/-! ### A chip with listed answers -/

/-- The chip answers the next exchanges with these bytes, whatever is sent, and is then `d`. -/
def Chip.Gives : Chip → List Byte → Chip → Prop
  | c, [], d => c = d
  | c, a :: as, d => ∃ c', (∀ h o, c.exchange h o = (a, c')) ∧ c'.Gives as d

theorem Chip.oracle_gives (as rest : List Byte) : (Chip.oracle (as ++ rest)).Gives as (.oracle rest) := by
  induction as with
  | nil => rfl
  | cons a as ih => exact ⟨_, fun _ _ => rfl, ih⟩

theorem Chip.steady_gives (as rest : List Byte) (b : Byte) : (Chip.steady (as ++ rest) b).Gives as (.steady rest b) := by
  induction as with
  | nil => rfl
  | cons a as ih => exact ⟨_, fun _ _ => rfl, ih⟩

theorem Chip.steady_gives_replicate (n : Nat) (b : Byte) : (Chip.steady [] b).Gives (List.replicate n b) (.steady [] b) := by
  induction n with
  | zero => rfl
  | succ n ih => exact ⟨_, fun _ _ => rfl, ih⟩

theorem Chip.gives_append {c d : Chip} {as bs : List Byte} (h : c.Gives (as ++ bs) d) : ∃ e, c.Gives as e ∧ e.Gives bs d := by
  induction as generalizing c with
  | nil => exact ⟨c, rfl, h⟩
  | cons a as ih =>
    obtain ⟨c', hx, hg⟩ := h
    obtain ⟨e, ha, hb⟩ := ih hg
    exact ⟨e, ⟨c', hx, ha⟩, hb⟩

/-- A chip that is no `RefChip`: neither select nor release changes it. -/
def Chip.plain (c : Chip) : Prop := ∀ r, c ≠ .ref r

theorem Chip.plain.select {c : Chip} (h : c.plain) : c.select = c := by
  cases c with
  | ref r => exact absurd rfl (h r)
  | _ => rfl

theorem Chip.plain.deselect {c : Chip} (h : c.plain) (hist : List Event) : c.deselect hist = c := by
  cases c with
  | ref r => exact absurd rfl (h r)
  | _ => rfl

theorem Chip.plain_oracle (as : List Byte) : (Chip.oracle as).plain := nofun

theorem Chip.plain_steady (as : List Byte) (b : Byte) : (Chip.steady as b).plain := nofun

theorem Chip.plain.gives {c d : Chip} {as : List Byte} (h : c.plain) (hg : c.Gives as d) : d.plain := by
  induction as generalizing c with
  | nil => exact hg ▸ h
  | cons a as ih =>
    obtain ⟨c', hx, hg⟩ := hg
    refine ih (c := c') ?_ hg
    have hc : c' = (c.exchange [] 0#8).2 := by rw [hx]
    cases c with
    | ref r => exact absurd rfl (h r)
    | oracle p => cases p <;> (rw [hc]; exact nofun)
    | steady p b => cases p <;> (rw [hc]; exact nofun)

/-! ### The bus moves on -/

/-- The state with the bus moved on: another phase, level of chip-select and chip, and the events `h` in the history. -/
def State.busStep (s : State) (p : Phase) (cs : Bool) (c : Chip) (h : List Event) : State :=
  { s with phase := p, csActive := cs, chip := c, hist := s.hist ++ h }

theorem State.busStep_busStep (s : State) (p p' : Phase) (cs cs' : Bool) (c c' : Chip) (h h' : List Event) :
    (s.busStep p cs c h).busStep p' cs' c' h' = s.busStep p' cs' c' (h ++ h') := by
  simp [State.busStep]

theorem State.capture_busStep (s : State) (p : Phase) (cs : Bool) (c : Chip) (h : List Event) (i : Fin 256) (v : Byte) :
    (s.busStep p cs c h).capture i v = (s.capture i v).busStep p cs c h := by
  have hd : (s.busStep p cs c h).xdst = s.xdst := rfl
  unfold State.capture
  rw [hd]
  cases s.xdst <;> rfl

theorem State.captureFrom_cons (s : State) (i : Fin 256) (v : Byte) (vs : List Byte) :
    s.captureFrom i.val (v :: vs) = (s.capture i v).captureFrom (i.val + 1) vs := by
  rw [State.captureFrom, dif_pos i.isLt]

/-- Capturing bytes leaves alone whatever capturing one does. -/
theorem State.captureFrom_keeps {α : Type} {f : State → α} (hf : ∀ (s : State) (i : Fin 256) (v : Byte), f (s.capture i v) = f s)
    (s : State) (i : Nat) (vs : List Byte) : f (s.captureFrom i vs) = f s := by
  induction vs generalizing s i with
  | nil => rfl
  | cons v vs ih =>
    unfold State.captureFrom
    split
    · rw [ih, hf]
    · rfl

@[simp] theorem State.captureFrom_hist (s : State) (i : Nat) (vs : List Byte) : (s.captureFrom i vs).hist = s.hist :=
  State.captureFrom_keeps State.capture_hist s i vs

@[simp] theorem State.captureFrom_inputs (s : State) (i : Nat) (vs : List Byte) : (s.captureFrom i vs).inputs = s.inputs :=
  State.captureFrom_keeps State.capture_inputs s i vs

@[simp] theorem State.captureFrom_rst (s : State) (i : Nat) (vs : List Byte) : (s.captureFrom i vs).rst = s.rst :=
  State.captureFrom_keeps State.capture_rst s i vs

@[simp] theorem State.captureFrom_xop (s : State) (i : Nat) (vs : List Byte) : (s.captureFrom i vs).xop = s.xop :=
  State.captureFrom_keeps State.capture_xop s i vs

@[simp] theorem State.captureFrom_xret (s : State) (i : Nat) (vs : List Byte) : (s.captureFrom i vs).xret = s.xret :=
  State.captureFrom_keeps State.capture_xret s i vs

@[simp] theorem State.captureFrom_addr (s : State) (i : Nat) (vs : List Byte) : (s.captureFrom i vs).addr = s.addr :=
  State.captureFrom_keeps State.capture_addr s i vs

@[simp] theorem State.captureFrom_rem (s : State) (i : Nat) (vs : List Byte) : (s.captureFrom i vs).rem = s.rem :=
  State.captureFrom_keeps State.capture_rem s i vs

@[simp] theorem State.captureFrom_chunk (s : State) (i : Nat) (vs : List Byte) : (s.captureFrom i vs).chunk = s.chunk :=
  State.captureFrom_keeps State.capture_chunk s i vs

@[simp] theorem State.captureFrom_rxq (s : State) (i : Nat) (vs : List Byte) : (s.captureFrom i vs).rxq = s.rxq :=
  State.captureFrom_keeps State.capture_rxq s i vs

@[simp] theorem State.captureFrom_txReady (s : State) (i : Nat) (vs : List Byte) : (s.captureFrom i vs).txReady = s.txReady :=
  State.captureFrom_keeps State.capture_txReady s i vs

theorem State.captureFrom_busStep (s : State) (p : Phase) (cs : Bool) (c : Chip) (h : List Event) (i : Nat) (vs : List Byte) :
    (s.busStep p cs c h).captureFrom i vs = (s.captureFrom i vs).busStep p cs c h := by
  induction vs generalizing s i with
  | nil => rfl
  | cons v vs ih =>
    unfold State.captureFrom
    split
    · rw [State.capture_busStep, ih]
    · rfl

theorem State.goto_busStep (s : State) (p p' : Phase) (cs : Bool) (c : Chip) (h : List Event) :
    (s.busStep p cs c h).goto p' = s.busStep p' cs c h := rfl

/-- An exchange answered with `a`. -/
theorem State.xfer_of_answer {s : State} {a : Byte} {d : Chip} (hx : ∀ h o, s.chip.exchange h o = (a, d)) (o : Byte) :
    s.xfer o = s.busStep s.phase s.csActive d [.xfer o a] := by
  simp only [State.xfer, State.answer, hx]
  rfl

theorem State.evOp_of_answer {s : State} {a : Byte} {d : Chip} (hx : ∀ h o, s.chip.exchange h o = (a, d)) :
    s.evOp = s.busStep s.afterOp s.csActive d [.xfer s.xop a] := by
  rw [State.evOp, State.xfer_of_answer hx]
  rfl

theorem State.evAddr_of_answer {s : State} {a : Byte} {d : Chip} (hx : ∀ h o, s.chip.exchange h o = (a, d)) (k : Fin 3) :
    s.evAddr k = s.busStep (if h : k.val < 2 then .xAddr ⟨k.val + 1, by omega⟩ else s.afterAddr) s.csActive d
      [.xfer (beByte24 s.xaddr k.val) a] := by
  rw [State.evAddr_eq, State.xfer_of_answer hx]
  rfl

theorem State.evPay_of_answer {s : State} {a : Byte} {d : Chip} (hx : ∀ h o, s.chip.exchange h o = (a, d)) (i : Fin 256) :
    s.evPay i = s.busStep (if h : i.val + 1 < s.xnpay.toNat ∧ i.val + 1 < 256 then .xPay ⟨i.val + 1, h.2⟩ else s.afterPay)
      s.csActive d [.xfer s.buf[i.val] a] := by
  rw [State.evPay_eq, State.xfer_of_answer hx]
  rfl

theorem State.evResp_of_answer {s : State} {a : Byte} {d : Chip} (hx : ∀ h o, s.chip.exchange h o = (a, d)) (i : Fin 256) :
    s.evResp i = (s.capture i a).busStep (if h : i.val + 1 < s.xnresp.toNat ∧ i.val + 1 < 256 then .xResp ⟨i.val + 1, h.2⟩ else .xCsOff)
      s.csActive d [.xfer 0x00#8 a] := by
  have ha : s.answer 0x00#8 = a := by rw [State.answer, hx]
  rw [State.evResp_eq, ha, State.xfer_of_answer hx, State.capture_busStep, State.goto_busStep]

/-- The bus is undisturbed: no host input, `rst` low, and one of the six opcodes in the register. -/
structure State.OnBus (s : State) : Prop where
  inputs : s.inputs = []
  rst : s.rst = false
  opcode : ∃ i, decodeBus s.xop = .ok i

theorem State.OnBus.step {s : State} (h : s.OnBus) (hp : s.phase.onBus = true) : step s = .next s.afterEvent := by
  obtain ⟨i, hi⟩ := h.opcode
  exact step_undisturbed h.inputs h.rst (by rw [State.fetch_onBus hp hi]; simp)

theorem State.OnBus.busStep {s : State} (h : s.OnBus) (p : Phase) (cs : Bool) (c : Chip) (e : List Event) :
    (s.busStep p cs c e).OnBus := ⟨h.inputs, h.rst, h.opcode⟩

theorem State.OnBus.capture {s : State} (h : s.OnBus) (i : Fin 256) (v : Byte) : (s.capture i v).OnBus :=
  ⟨by simpa using h.inputs, by simpa using h.rst, by simpa using h.opcode⟩

theorem State.OnBus.captureFrom {s : State} (h : s.OnBus) (i : Nat) (vs : List Byte) : (s.captureFrom i vs).OnBus :=
  ⟨by simpa using h.inputs, by simpa using h.rst, by simpa using h.opcode⟩

/-- Exchanges of the bytes `mosi`, answered with `miso`. -/
def exchangeTrace (mosi miso : List Byte) : List Event := List.zipWith Event.xfer mosi miso

/-! ### The response, the payload, the address -/

/-- From `X_RESP(i)` the rest of the response lands, then the release. -/
theorem State.run_response {s : State} {i : Fin 256} {as : List Byte} {d : Chip} (hb : s.OnBus) (hp : s.phase = .xResp i)
    (hl : i.val + as.length = s.xnresp.toNat) (hmax : s.xnresp.toNat ≤ 256) (hne : as ≠ []) (hg : s.chip.Gives as d) :
    run as.length s = .next ((s.captureFrom i.val as).busStep .xCsOff s.csActive d
      (exchangeTrace (List.replicate as.length 0x00#8) as)) := by
  induction as generalizing s i with
  | nil => exact absurd rfl hne
  | cons a as ih =>
    obtain ⟨c, hx, hg⟩ := hg
    rw [List.length_cons, run_next (hb.step (by rw [hp]; rfl)), State.captureFrom_cons]
    simp only [State.afterEvent, hp, State.evResp_of_answer hx]
    simp only [List.length_cons] at hl
    cases as with
    | nil =>
      obtain rfl := hg
      have hlast : ¬ (i.val + 1 < s.xnresp.toNat ∧ i.val + 1 < 256) := by simp at hl; omega
      rw [dif_neg hlast]
      rfl
    | cons b bs =>
      have hnext : i.val + 1 < s.xnresp.toNat ∧ i.val + 1 < 256 := by simp only [List.length_cons] at hl; omega
      rw [dif_pos hnext, ih (i := ⟨i.val + 1, hnext.2⟩) ((hb.capture i a).busStep _ _ _ _) rfl (by simp [State.busStep] at hl ⊢; omega)
        (by simpa [State.busStep] using hmax) (List.cons_ne_nil b bs) hg, State.captureFrom_busStep, State.busStep_busStep]
      rfl

/-- After the payload: the response, if there is one, then the release. -/
theorem State.run_afterPay {s : State} {as : List Byte} {d : Chip} (hb : s.OnBus) (hp : s.phase = s.afterPay)
    (hl : as.length = s.xnresp.toNat) (hmax : s.xnresp.toNat ≤ 256) (hg : s.chip.Gives as d) :
    run as.length s = .next ((s.captureFrom 0 as).busStep .xCsOff s.csActive d
      (exchangeTrace (List.replicate as.length 0x00#8) as)) := by
  unfold State.afterPay at hp
  split at hp
  · exact State.run_response hb hp (by simpa using hl) hmax (List.ne_nil_of_length_pos (by omega)) hg
  · obtain rfl := List.eq_nil_of_length_eq_zero (by omega : as.length = 0)
    obtain rfl := hg
    simp [State.busStep, State.captureFrom, exchangeTrace, ← hp]

/-- From `X_PAY(i)` the rest of the payload goes out, then the response comes in, then the release. -/
theorem State.run_payload {s : State} {i : Fin 256} {ps rs : List Byte} {d : Chip} (hb : s.OnBus) (hp : s.phase = .xPay i)
    (hl : i.val + ps.length = s.xnpay.toNat) (hlr : rs.length = s.xnresp.toNat) (hmaxp : s.xnpay.toNat ≤ 256)
    (hmax : s.xnresp.toNat ≤ 256) (hne : ps ≠ []) (hg : s.chip.Gives (ps ++ rs) d) :
    run (ps.length + rs.length) s = .next ((s.captureFrom 0 rs).busStep .xCsOff s.csActive d
      (exchangeTrace (s.payload.drop i.val ++ List.replicate rs.length 0x00#8) (ps ++ rs))) := by
  induction ps generalizing s i with
  | nil => exact absurd rfl hne
  | cons a ps ih =>
    obtain ⟨c, hx, hg⟩ := hg
    simp only [List.length_cons] at hl
    have hlen : s.payload.length = s.xnpay.toNat := by simp [State.payload, hmaxp]
    have hbyte : s.payload.drop i.val = s.buf[i.val] :: s.payload.drop (i.val + 1) := by
      rw [List.drop_eq_getElem_cons (by omega)]
      simp [State.payload]
    rw [List.length_cons, Nat.add_right_comm, run_next (hb.step (by rw [hp]; rfl)), hbyte]
    simp only [State.afterEvent, hp, State.evPay_of_answer hx]
    cases ps with
    | nil =>
      have hlast : ¬ (i.val + 1 < s.xnpay.toNat ∧ i.val + 1 < 256) := by simp at hl; omega
      have hend : s.payload.drop (i.val + 1) = [] := List.drop_eq_nil_of_le (by simp at hl; omega)
      rw [dif_neg hlast, List.length_nil, Nat.zero_add, State.run_afterPay (hb.busStep _ _ _ _) rfl hlr hmax hg,
        State.captureFrom_busStep, State.busStep_busStep, hend]
      rfl
    | cons b bs =>
      have hnext : i.val + 1 < s.xnpay.toNat ∧ i.val + 1 < 256 := by simp only [List.length_cons] at hl; omega
      rw [dif_pos hnext, ih (i := ⟨i.val + 1, hnext.2⟩) (hb.busStep _ _ _ _) rfl (by simp [State.busStep] at hl ⊢; omega) hlr
        hmaxp hmax (List.cons_ne_nil b bs) hg, State.captureFrom_busStep, State.busStep_busStep]
      rfl

/-- After the address: the payload, if there is one, then the response. -/
theorem State.run_afterAddr {s : State} {ps rs : List Byte} {d : Chip} (hb : s.OnBus) (hp : s.phase = s.afterAddr)
    (hl : ps.length = s.xnpay.toNat) (hlr : rs.length = s.xnresp.toNat) (hmaxp : s.xnpay.toNat ≤ 256)
    (hmax : s.xnresp.toNat ≤ 256) (hg : s.chip.Gives (ps ++ rs) d) :
    run (ps.length + rs.length) s = .next ((s.captureFrom 0 rs).busStep .xCsOff s.csActive d
      (exchangeTrace (s.payload ++ List.replicate rs.length 0x00#8) (ps ++ rs))) := by
  unfold State.afterAddr at hp
  split at hp
  · exact State.run_payload hb hp (by simpa using hl) hlr hmaxp hmax (List.ne_nil_of_length_pos (by omega)) hg
  · obtain rfl := List.eq_nil_of_length_eq_zero (by omega : ps.length = 0)
    rw [List.length_nil, Nat.zero_add, State.payload_of_zero (by omega)]
    exact State.run_afterPay hb hp hlr hmax hg

/-- The three address bytes go out, then the payload and the response. -/
theorem State.run_address {s : State} {as ps rs : List Byte} {d : Chip} (hb : s.OnBus) (hp : s.phase = .xAddr 0)
    (hla : as.length = 3) (hl : ps.length = s.xnpay.toNat) (hlr : rs.length = s.xnresp.toNat) (hmaxp : s.xnpay.toNat ≤ 256)
    (hmax : s.xnresp.toNat ≤ 256) (hg : s.chip.Gives (as ++ (ps ++ rs)) d) :
    run (as.length + (ps.length + rs.length)) s = .next ((s.captureFrom 0 rs).busStep .xCsOff s.csActive d
      (exchangeTrace (beBytes24 s.xaddr ++ (s.payload ++ List.replicate rs.length 0x00#8)) (as ++ (ps ++ rs)))) := by
  obtain ⟨a, b, c, rfl⟩ := List.length_eq_three.mp hla
  obtain ⟨c0, hx0, c1, hx1, c2, hx2, hg⟩ := hg
  have hstep : ∀ {t : State} {k : Fin 3} {v : Byte} {e : Chip}, t.OnBus → t.phase = .xAddr k →
      (∀ h o, t.chip.exchange h o = (v, e)) → step t = .next (t.busStep
        (if h : k.val < 2 then .xAddr ⟨k.val + 1, by omega⟩ else t.afterAddr) t.csActive e [.xfer (beByte24 t.xaddr k.val) v]) :=
    fun ht hk hx => by
      rw [ht.step (by rw [hk]; rfl), ← State.evAddr_of_answer hx]
      simp only [State.afterEvent, hk]
  have hlen : [a, b, c].length + (ps.length + rs.length) = ps.length + rs.length + 1 + 1 + 1 := by simp; omega
  rw [hlen]
  refine (run_next (hstep hb hp hx0)).trans ?_
  refine (run_next (hstep (k := 1) (hb.busStep _ _ _ _) rfl hx1)).trans ?_
  refine (run_next (hstep (k := 2) ((hb.busStep _ _ _ _).busStep _ _ _ _) rfl hx2)).trans ?_
  refine (State.run_afterAddr (((hb.busStep _ _ _ _).busStep _ _ _ _).busStep _ _ _ _) rfl hl hlr hmaxp hmax hg).trans ?_
  simp only [State.captureFrom_busStep, State.busStep_busStep]
  rfl

/-- After the opcode: the address, if there is one, then the payload and the response. -/
theorem State.run_afterOp {s : State} {as ps rs : List Byte} {d : Chip} (hb : s.OnBus) (hp : s.phase = s.afterOp)
    (hla : as.length = s.addrBytes.length) (hl : ps.length = s.xnpay.toNat) (hlr : rs.length = s.xnresp.toNat)
    (hmaxp : s.xnpay.toNat ≤ 256) (hmax : s.xnresp.toNat ≤ 256) (hg : s.chip.Gives (as ++ (ps ++ rs)) d) :
    run (as.length + (ps.length + rs.length)) s = .next ((s.captureFrom 0 rs).busStep .xCsOff s.csActive d
      (exchangeTrace (s.addrBytes ++ (s.payload ++ List.replicate rs.length 0x00#8)) (as ++ (ps ++ rs)))) := by
  unfold State.afterOp at hp
  split at hp
  · rename_i ha
    rw [State.addrBytes_of_hasAddr ha] at hla ⊢
    exact State.run_address hb hp hla hl hlr hmaxp hmax hg
  · rename_i ha
    rw [State.addrBytes_of_no_addr (by simpa using ha)] at hla ⊢
    obtain rfl := List.eq_nil_of_length_eq_zero hla
    rw [List.length_nil, Nat.zero_add]
    exact State.run_afterAddr hb hp hl hlr hmaxp hmax hg

/-! ### The whole transaction -/

theorem State.mosiBytes_length {s : State} (h : s.xnpay.toNat ≤ 256) :
    s.mosiBytes.length = s.addrBytes.length + (s.xnpay.toNat + s.xnresp.toNat) + 1 := by
  simp [State.mosiBytes, State.payload, h]

theorem State.evCsOn_of_plain {s : State} (hc : s.chip.plain) : s.evCsOn = s.busStep .xOp true s.chip [.csAssert] := by
  simp only [State.evCsOn, State.csAssert, hc.select]
  rfl

/-- The select and the opcode. -/
theorem State.run_opening {s : State} {x : Byte} {c : Chip} {n : Nat} (hb : s.OnBus) (hp : s.phase = .xCsOn) (hc : s.chip.plain)
    (hx : ∀ h o, s.chip.exchange h o = (x, c)) :
    run (n + 2) s = run n (s.busStep s.afterOp true c [.csAssert, .xfer s.xop x]) := by
  rw [run_next (hb.step (by rw [hp]; rfl)), State.afterEvent, hp]
  simp only [State.evCsOn_of_plain hc]
  rw [run_next ((hb.busStep _ _ _ _).step rfl)]
  refine congrArg (run n) ((State.evOp_of_answer (s := s.busStep .xOp true s.chip [.csAssert]) hx).trans ?_)
  rw [State.busStep_busStep]
  rfl

theorem State.csDeassert_of_plain {s : State} (hc : s.chip.plain) :
    s.csDeassert = s.busStep s.phase false s.chip [.csDeassert] := by
  simp only [State.csDeassert, hc.deselect]
  rfl

/-- The release and the continuation. -/
theorem State.run_closing {s : State} (hb : s.OnBus) (hp : s.phase = .xCsOff) (hc : s.chip.plain) :
    run 1 s = .next (s.busStep .xCsOff false s.chip [.csDeassert]).continueAt := by
  rw [run_next (hb.step (by rw [hp]; rfl)), run_zero, State.afterEvent, hp]
  simp only [State.evCsOff, State.csDeassert_of_plain hc, hp]

/-- A transaction on a chip with listed answers: select, the bytes of the descriptor, release, continuation; the last answers have
landed where `xdst` says. -/
theorem State.run_transaction {s : State} {ans : List Byte} {d : Chip} (hb : s.OnBus) (hp : s.phase = .xCsOn)
    (hmaxp : s.xnpay.toNat ≤ 256) (hmax : s.xnresp.toNat ≤ 256) (hc : s.chip.plain) (hg : s.chip.Gives ans d)
    (hl : ans.length = s.mosiBytes.length) :
    run (ans.length + 2) s = .next ((s.captureFrom 0 (ans.drop (ans.length - s.xnresp.toNat))).busStep .xCsOff false d
      (transactionTrace s.mosiBytes ans)).continueAt := by
  rw [State.mosiBytes_length hmaxp] at hl
  obtain ⟨x, as, ps, rs, rfl, hla, hlp, hlr⟩ : ∃ x as ps rs, ans = x :: (as ++ (ps ++ rs)) ∧ as.length = s.addrBytes.length ∧
      ps.length = s.xnpay.toNat ∧ rs.length = s.xnresp.toNat := by
    obtain ⟨x, ans, rfl⟩ := List.exists_cons_of_length_eq_add_one hl
    refine ⟨x, ans.take s.addrBytes.length, (ans.drop s.addrBytes.length).take s.xnpay.toNat,
      (ans.drop s.addrBytes.length).drop s.xnpay.toNat, by simp, ?_, ?_, ?_⟩ <;> simp at hl ⊢ <;> omega
  obtain ⟨c, hx, hgc⟩ := id hg
  have hresp : (x :: (as ++ (ps ++ rs))).drop ((x :: (as ++ (ps ++ rs))).length - s.xnresp.toNat) = rs := by
    rw [← hlr, ← List.append_assoc, ← List.cons_append]
    exact List.drop_left' (by simp; omega)
  have hmid := State.run_afterOp (hb.busStep s.afterOp true c [.csAssert, .xfer s.xop x]) rfl hla hlp hlr hmaxp hmax hgc
  rw [State.captureFrom_busStep, State.busStep_busStep] at hmid
  have hlen : (x :: (as ++ (ps ++ rs))).length + 2 = as.length + (ps.length + rs.length) + 1 + 2 := by simp
  rw [hlen, State.run_opening hb hp hc hx, run_append hmid, hresp]
  refine (State.run_closing ((hb.captureFrom 0 rs).busStep _ _ _ _) rfl (hc.gives hg)).trans ?_
  have htrace : transactionTrace s.mosiBytes (x :: (as ++ (ps ++ rs))) = [.csAssert, .xfer s.xop x] ++
      exchangeTrace (s.addrBytes ++ (s.payload ++ List.replicate rs.length 0x00#8)) (as ++ (ps ++ rs)) ++ [.csDeassert] := by
    simp [transactionTrace, State.mosiBytes, exchangeTrace, hlr]
  rw [State.busStep_busStep, htrace]
  rfl

/-- Settles O37: `State.run_transaction` on a chip with the answers pending. -/
theorem transactionRunsToItsEnd : Obligations.TransactionRunsToItsEnd := by
  intro s i ans rest hi hr hp hd hmaxp hmax hc hl
  have hg : s.chip.Gives ans (.oracle rest) := hc ▸ Chip.oracle_gives ans rest
  have hplain : s.chip.plain := hc ▸ Chip.plain_oracle _
  rw [State.run_transaction ⟨hi, hr, i, hd⟩ hp hmaxp hmax hplain hg hl, State.busStep, State.captureFrom_hist]

end Sys2Proof.Machine
end

section
/-! PROOFS. The parts whole commands are made of, on a quiet host and a chip with listed answers: the tag, each of the six transactions
with its continuation, and the busy-wait (R186 to R191, R204, R212, R216, R220, R230 to R232). -/

namespace Sys2Proof.Machine

/-! ### A quiet host -/

theorem State.fetch_offBus {s : State} (h : s.phase.onBus = false) : s.fetch ≠ .noOpcode := by
  cases hp : s.phase with
  | idle => cases hq : s.rxq <;> simp [State.fetch, hp, hq]
  | param c k | ack1 c | gap c | pollWait c => cases c <;> simp [State.fetch, hp]
  | rOut i | wIn i | ack2 | eAck | dOut i => simp [State.fetch, hp]
  | _ => rw [hp] at h; exact absurd (show true = false from h) Bool.noConfusion

/-- Outside the transactions a step of an undisturbed machine is the event of the phase. -/
theorem State.step_offBus {s : State} (hi : s.inputs = []) (hr : s.rst = false) (hp : s.phase.onBus = false) :
    step s = .next s.afterEvent := step_undisturbed hi hr (State.fetch_offBus hp)

/-- In IDLE the tag at the head of the queue starts its command (R121). -/
theorem State.step_idle {s : State} {b : Byte} {q : List Byte} (hi : s.inputs = []) (hr : s.rst = false) (hp : s.phase = .idle)
    (hq : s.rxq = b :: q) : step s = .next (((s.setRxq q).log (.rx b)).dispatched (decodeTag b)) := by
  rw [State.step_offBus hi hr (by rw [hp]; rfl)]
  simp only [State.afterEvent, hp, hq]

theorem State.step_dOut {s : State} {k : Fin 7} (h : s.quiet) (hp : s.phase = .dOut k) :
    step s = .next ((s.log (.tx (s.detectByte k))).goto (if h : k.val < 6 then .dOut ⟨k.val + 1, by omega⟩ else .idle)) := by
  obtain ⟨hi, hr, ht⟩ := h
  rw [State.step_offBus hi hr (by rw [hp]; rfl), ← State.evDOut_ready ht]
  simp only [State.afterEvent, hp]

theorem State.step_finalAck {s : State} (h : s.quiet) (hp : s.phase = .ack2 ∨ s.phase = .eAck) :
    step s = .next ((s.log (.tx 0xAA#8)).goto .idle) := by
  obtain ⟨hi, hr, ht⟩ := h
  rw [← State.evFinalAck_ready ht]
  obtain hp | hp := hp <;> (rw [State.step_offBus hi hr (by rw [hp]; rfl)]; simp only [State.afterEvent, hp])

theorem State.step_gap {s : State} {c : WriteClass} (hi : s.inputs = []) (hr : s.rst = false) (hp : s.phase = .gap c) :
    step s = .next (s.evGap c) := by
  rw [State.step_offBus hi hr (by rw [hp]; rfl)]
  simp only [State.afterEvent, hp]

theorem State.step_pollWait {s : State} {c : WriteClass} (hi : s.inputs = []) (hr : s.rst = false) (hp : s.phase = .pollWait c) :
    step s = .next (s.evPollWait c) := by
  rw [State.step_offBus hi hr (by rw [hp]; rfl)]
  simp only [State.afterEvent, hp]

/-! ### What a part of a command leaves of the machine -/

/-- `t` is `s` after the events `h`, with the chip `d` and the queue `q`: the transfer and the host are as they were. -/
structure State.Follows (s t : State) (h : List Event) (d : Chip) (q : List Byte) : Prop where
  hist : t.hist = s.hist ++ h
  chip : t.chip = d
  rxq : t.rxq = q
  addr : t.addr = s.addr
  rem : t.rem = s.rem
  chunk : t.chunk = s.chunk
  inputs : t.inputs = s.inputs
  rst : t.rst = s.rst
  txReady : t.txReady = s.txReady

theorem State.Follows.trans {s t u : State} {h h' : List Event} {d d' : Chip} {q q' : List Byte} (ht : s.Follows t h d q)
    (hu : t.Follows u h' d' q') : s.Follows u (h ++ h') d' q' where
  hist := by rw [hu.hist, ht.hist, List.append_assoc]
  chip := hu.chip
  rxq := hu.rxq
  addr := hu.addr.trans ht.addr
  rem := hu.rem.trans ht.rem
  chunk := hu.chunk.trans ht.chunk
  inputs := hu.inputs.trans ht.inputs
  rst := hu.rst.trans ht.rst
  txReady := hu.txReady.trans ht.txReady

theorem State.Follows.goto {s t : State} {h : List Event} {d : Chip} {q : List Byte} (ht : s.Follows t h d q) (p : Phase) :
    s.Follows (t.goto p) h d q := ⟨ht.1, ht.2, ht.3, ht.4, ht.5, ht.6, ht.7, ht.8, ht.9⟩

theorem State.Follows.quiet {s t : State} {h : List Event} {d : Chip} {q : List Byte} (ht : s.Follows t h d q) (hq : s.quiet) :
    t.quiet := ⟨ht.inputs.trans hq.1, ht.rst.trans hq.2.1, ht.txReady.trans hq.2.2⟩

/-! ### The six transactions -/

/-- The state in which the poll that read `y` is tested. -/
def State.polled (s : State) (c : WriteClass) (p : PollAnswer) (d : Chip) : State :=
  ((s.setupRdsr c).setSr p.2).busStep .xCsOff false d (transactionTrace (encodeBusCmd .rdsr) [p.1, p.2])

theorem State.polled_follows (s : State) (c : WriteClass) (p : PollAnswer) (d : Chip) :
    s.Follows (s.polled c p d) (transactionTrace (encodeBusCmd .rdsr) [p.1, p.2]) d s.rxq :=
  ⟨rfl, rfl, rfl, rfl, rfl, rfl, rfl, rfl, rfl⟩

/-- The state after Write Enable, answered with `x`, and the gap. -/
def State.enabled (s : State) (c : WriteClass) (x : Byte) (d : Chip) : State :=
  ((s.setupWren c).busStep (.gap c) false d (transactionTrace (encodeBusCmd .wren) [x])).wait .wrenGap

theorem State.enabled_follows (s : State) (c : WriteClass) (x : Byte) (d : Chip) :
    s.Follows (s.enabled c x d) (transactionTrace (encodeBusCmd .wren) [x] ++ [.wait .wrenGap]) d s.rxq :=
  ⟨List.append_assoc _ _ _, rfl, rfl, rfl, rfl, rfl, rfl, rfl, rfl⟩

/-- Three response bytes leave nothing of the ID register. -/
theorem jedec_filled (v : Vector Byte 3) (j0 j1 j2 : Byte) : ((v.set 0 j0).set 1 j1).set 2 j2 = #v[j0, j1, j2] := by
  ext i hi
  interval_cases i <;> simp

section
variable {s : State} {ans : List Byte} {d : Chip} (hi : s.inputs = []) (hr : s.rst = false) (hc : s.chip.plain) (hg : s.chip.Gives ans d)
include hi hr hc hg

/-- A transaction without response bytes changes no register before its continuation. -/
theorem State.run_silent (ho : ∃ i, decodeBus s.xop = .ok i) (hp : s.phase = .xCsOn) (hn : s.xnpay.toNat ≤ 256)
    (hz : s.xnresp.toNat = 0) {mosi : List Byte} (hm : s.mosiBytes = mosi) (hl : ans.length = mosi.length) :
    run (ans.length + 2) s = .next (s.busStep .xCsOff false d (transactionTrace mosi ans)).continueAt := by
  subst hm
  have hnone : ans.drop (ans.length - s.xnresp.toNat) = [] := by rw [hz]; exact List.drop_length
  rw [State.run_transaction ⟨hi, hr, ho⟩ hp hn (by omega) hc hg hl, hnone]
  rfl

/-- Write Enable and the gap, up to the write-class transaction. -/
theorem State.run_wren (c : WriteClass) {x : Byte} (ha : ans = [x]) : run 4 (s.setupWren c) =
    .next (match c with | .w => (s.enabled .w x d).setupPp | .e => (s.enabled .e x d).setupCe) := by
  subst ha
  have h := State.run_silent (s := s.setupWren c) hi hr hc hg ⟨_, rfl⟩ rfl (Nat.zero_le _) rfl rfl rfl
  have hgap : run 3 (s.setupWren c) =
      .next ((s.setupWren c).busStep (.gap c) false d (transactionTrace (encodeBusCmd .wren) [x])) := by
    cases c <;> exact h
  rw [run_append (n := 1) hgap, run_next (State.step_gap (by exact hi) (by exact hr) rfl)]
  cases c <;> rfl

/-- Chip Erase, up to the first poll. -/
theorem State.run_ce (hl : ans.length = 1) : run 3 s.setupCe =
    .next ((s.setupCe.busStep .xCsOff false d (transactionTrace (encodeBusCmd .chipErase) ans)).setupRdsr .e) := by
  have h := State.run_silent (s := s.setupCe) hi hr hc hg ⟨_, rfl⟩ rfl (Nat.zero_le _) rfl rfl hl
  rw [hl] at h
  exact h

/-- Page Program of the chunk, up to the first poll. -/
theorem State.run_pp (hn : s.chunk.toNat ≤ 256) (hl : ans.length = s.chunk.toNat + 4) : run (ans.length + 2) s.setupPp =
    .next ((s.setupPp.busStep .xCsOff false d (transactionTrace
      (encodeBusCmd (.program (busAddr s.addr) (s.buf.toList.take s.chunk.toNat))) ans)).setupRdsr .w) := by
  obtain ⟨-, -, -, hm, -⟩ := setupSpellsTheTransaction s .w hn
  exact State.run_silent (s := s.setupPp) hi hr hc hg ⟨_, rfl⟩ rfl hn rfl hm (by simp [encodeBusCmd, hl, hn]; omega)

/-- Read Data of the chunk, up to its first byte to the host. -/
theorem State.run_readData (hn : s.chunk.toNat ≤ 256) (hl : ans.length = s.chunk.toNat + 4) : run (ans.length + 2) s.setupRead =
    .next ((s.setupRead.captureFrom 0 (ans.drop 4)).busStep (.rOut 0) false d
      (transactionTrace (encodeBusCmd (.read (busAddr s.addr) s.chunk.toNat)) ans)) := by
  obtain ⟨-, hm, -⟩ := setupSpellsTheTransaction s .w hn
  have hdrop : ans.length - s.setupRead.xnresp.toNat = 4 := by
    have hx : s.setupRead.xnresp = s.chunk := rfl
    rw [hx]
    omega
  have hret : (s.setupRead.captureFrom 0 (ans.drop 4)).xret = .rdDone := State.captureFrom_xret _ _ _
  rw [State.run_transaction (s := s.setupRead) ⟨hi, hr, _, rfl⟩ rfl (Nat.zero_le _) hn hc hg
    (by rw [hm]; simp [encodeBusCmd, hl]; omega), hdrop, hm]
  exact congrArg Host.Outcome.next (State.continueAt_rdDone hret)

/-- Read JEDEC ID, up to the first response byte to the host. -/
theorem State.run_rdid {x j0 j1 j2 : Byte} (ha : ans = [x, j0, j1, j2]) : run 6 s.setupRdid =
    .next (({ s.setupRdid with jedec := #v[j0, j1, j2], cap := decodeCapacity j0 j1 j2 } : State).busStep (.dOut 0) false d
      (transactionTrace (encodeBusCmd .rdid) ans)) := by
  subst ha
  have hcap : s.setupRdid.captureFrom 0 [j0, j1, j2] = { s.setupRdid with jedec := #v[j0, j1, j2] } := by
    rw [← jedec_filled s.jedec j0 j1 j2]
    rfl
  have h := State.run_transaction (s := s.setupRdid) ⟨hi, hr, _, rfl⟩ rfl (Nat.zero_le _) (show (3 : Count).toNat ≤ 256 by decide)
    hc hg rfl
  rw [show List.drop _ [x, j0, j1, j2] = [j0, j1, j2] from rfl, hcap] at h
  exact h

/-- A status poll, up to the test of bit 0. -/
theorem State.run_rdsr (c : WriteClass) {p : PollAnswer} (ha : ans = [p.1, p.2]) : run 4 (s.setupRdsr c) =
    .next ((s.polled c p d).pollDone c) := by
  subst ha
  exact State.run_transaction (s := s.setupRdsr c) ⟨hi, hr, _, rfl⟩ rfl (Nat.zero_le _) (show (1 : Count).toNat ≤ 256 by decide)
    hc hg rfl

end

/-! ### The busy-wait (R230 to R232) -/

theorem pollBytes_cons (p : PollAnswer) (ps : List PollAnswer) : pollBytes (p :: ps) = [p.1, p.2] ++ pollBytes ps := rfl

theorem busyTrace_cons (p : PollAnswer) (ps : List PollAnswer) : busyTrace (p :: ps) =
    transactionTrace (encodeBusCmd .rdsr) [p.1, p.2] ++ [.wait .poll] ++ busyTrace ps := rfl

theorem State.Follows.refl (s : State) : s.Follows s [] s.chip s.rxq :=
  ⟨(List.append_nil _).symm, rfl, rfl, rfl, rfl, rfl, rfl, rfl, rfl⟩

section
variable {c : WriteClass}

/-- Polls that read bit 0 set, each with its delay, lead back to the start of a poll. -/
theorem State.run_busy {s : State} {ps : List PollAnswer} {d : Chip} (hi : s.inputs = []) (hr : s.rst = false) (hc : s.chip.plain)
    (hg : s.chip.Gives (pollBytes ps) d) (hb : ∀ p ∈ ps, writeInProgress p.2 = true) :
    ∃ t, run (5 * ps.length) (s.setupRdsr c) = .next (t.setupRdsr c) ∧ s.Follows t (busyTrace ps) d s.rxq := by
  induction ps generalizing s with
  | nil =>
    obtain rfl := hg
    exact ⟨s, rfl, .refl s⟩
  | cons p ps ih =>
    obtain ⟨e, hge, hgd⟩ := Chip.gives_append hg
    obtain ⟨hp, hb⟩ := List.forall_mem_cons.mp hb
    let u := (s.polled c p e).wait .poll
    have hu : s.Follows u (transactionTrace (encodeBusCmd .rdsr) [p.1, p.2] ++ [.wait .poll]) e s.rxq :=
      (s.polled_follows c p e).trans ⟨rfl, rfl, rfl, rfl, rfl, rfl, rfl, rfl, rfl⟩
    have hpoll : run 5 (s.setupRdsr c) = .next (u.setupRdsr c) := by
      refine (run_append (n := 1) (State.run_rdsr hi hr hc hge c rfl)).trans ?_
      rw [State.pollDone_busy c (s := s.polled c p e) hp]
      exact run_next (State.step_pollWait (by exact hi) (by exact hr) rfl)
    obtain ⟨t, ht, hf⟩ := ih (s := u) hi hr (hc.gives hge) hgd hb
    refine ⟨t, ?_, busyTrace_cons p ps ▸ hu.trans hf⟩
    rw [List.length_cons, Nat.mul_succ, Nat.add_comm, run_append hpoll, ht]

/-- A busy-wait that ends: bit 0 reads clear at last, with the chip released. -/
theorem State.run_busyWait {s : State} {ps : List PollAnswer} {last : PollAnswer} {d : Chip} (hi : s.inputs = []) (hr : s.rst = false)
    (hc : s.chip.plain) (hg : s.chip.Gives (pollBytes ps ++ [last.1, last.2]) d) (hb : pollsEnd ps last) :
    ∃ t, run (5 * ps.length + 4) (s.setupRdsr c) = .next (t.pollDone c) ∧ s.Follows t (busyWaitTrace ps last) d s.rxq ∧
      t.busyFlag = false ∧ t.csActive = false := by
  obtain ⟨e, hge, hgd⟩ := Chip.gives_append hg
  obtain ⟨u, hu, hf⟩ := State.run_busy (c := c) hi hr hc hge hb.1
  have hg' : u.chip.Gives [last.1, last.2] d := hf.chip.symm ▸ hgd
  have hc' : u.chip.plain := hf.chip.symm ▸ hc.gives hge
  refine ⟨u.polled c last d, ?_, ?_, hb.2, rfl⟩
  · exact (run_append hu).trans (State.run_rdsr (hf.inputs.trans hi) (hf.rst.trans hr) hc' hg' c rfl)
  · exact hf.rxq ▸ hf.trans (u.polled_follows c last d)

end

end Sys2Proof.Machine
end

section
/-! PROOFS. The whole short commands (R186, R216 to R223, R128): a run of unknown bytes, Detect, Erase. -/

namespace Sys2Proof.Machine

/-! ### Unknown bytes -/

theorem State.step_unknown {s : State} {b : Byte} {q : List Byte} (hi : s.inputs = []) (hr : s.rst = false) (hp : s.phase = .idle)
    (hq : s.rxq = b :: q) (hb : isCommandTag b = false) : step s = .next { s with rxq := q, hist := s.hist ++ [.rx b] } := by
  rw [State.step_idle hi hr hp hq, decodeTag_of_not_tag hb]
  exact congrArg Host.Outcome.next (State.goto_eq_self (s := (s.setRxq q).log (.rx b)) hp)

/-- Settles O49: by induction on the bytes, each a step that only takes it. -/
theorem unknownBytesAreConsumed : Obligations.UnknownBytesAreConsumed := by
  intro s bs q hs hp hq hb
  induction bs generalizing s with
  | nil => simp [rxTrace, ← show s.rxq = q from hq]
  | cons b bs ih =>
    obtain ⟨hb, hbs⟩ := List.forall_mem_cons.mp hb
    rw [List.length_cons, run_next (State.step_unknown hs.1 hs.2.1 hp hq hb)]
    refine (ih _ (by exact hs) (by exact hp) (by rfl) hbs).trans ?_
    simp [rxTrace]

/-! ### Detect -/

/-- The seven response bytes of Detect to the host (R221). -/
theorem State.run_dOut {s : State} (hs : s.quiet) (hp : s.phase = .dOut 0) : run 7 s =
    .next { s with phase := .idle, hist := s.hist ++ txTrace (s.jedec.toList ++ leBytes32 s.cap) } := by
  refine (run_next (State.step_dOut hs hp)).trans ?_
  refine (run_next (State.step_dOut (k := 1) (by exact hs) rfl)).trans ?_
  refine (run_next (State.step_dOut (k := 2) (by exact hs) rfl)).trans ?_
  refine (run_next (State.step_dOut (k := 3) (by exact hs) rfl)).trans ?_
  refine (run_next (State.step_dOut (k := 4) (by exact hs) rfl)).trans ?_
  refine (run_next (State.step_dOut (k := 5) (by exact hs) rfl)).trans ?_
  refine (run_next (State.step_dOut (k := 6) (by exact hs) rfl)).trans ?_
  have hj : s.jedec.toList = [s.jedec[0], s.jedec[1], s.jedec[2]] := by
    apply List.ext_getElem (by simp)
    intro i hi _
    simp at hi
    interval_cases i <;> simp
  simp [State.log, State.goto, State.detectByte, txTrace, leBytes32, hj]

/-- Settles O48: the tag, `State.run_rdid`, `State.run_dOut`. -/
theorem detectRunsWhole : Obligations.DetectRunsWhole := by
  intro s x j0 j1 j2 rest q hs hp hq hc
  obtain ⟨hi, hr, ht⟩ := id hs
  let u := (s.setRxq q).log (.rx 0x44#8)
  have hg : u.chip.Gives [x, j0, j1, j2] (.oracle rest) := by
    show s.chip.Gives _ _
    rw [hc]
    exact Chip.oracle_gives [x, j0, j1, j2] rest
  have hplain : u.chip.plain := by
    show s.chip.plain
    rw [hc]
    exact Chip.plain_oracle _
  refine ⟨_, (run_next (State.step_idle hi hr hp hq)).trans ((run_append (n := 7) (State.run_rdid (s := u) hi hr hplain hg rfl)).trans
    (State.run_dOut ⟨hi, hr, ht⟩ rfl)), rfl, rfl, rfl, rfl, ?_⟩
  rfl

/-! ### Erase -/

/-- Erase up to its first poll: the tag, Write Enable, the gap, Chip Erase. -/
theorem State.run_erase {s : State} {x y : Byte} {q : List Byte} {d : Chip} (hi : s.inputs = []) (hr : s.rst = false)
    (hp : s.phase = .idle) (hq : s.rxq = encodeFrame .erase ++ q) (hc : s.chip.plain) (hg : s.chip.Gives [x, y] d) :
    ∃ t, run 8 s = .next (t.setupRdsr .e) ∧ s.Follows t ([.rx 0x45#8] ++ (transactionTrace (encodeBusCmd .wren) [x] ++
      [.wait .wrenGap] ++ transactionTrace (encodeBusCmd .chipErase) [y])) d q := by
  obtain ⟨e, hge, hgd⟩ := Chip.gives_append (as := [x]) hg
  let u := (s.setRxq q).log (.rx 0x45#8)
  let v := u.enabled .e x e
  have htag : s.Follows u [.rx 0x45#8] s.chip q := ⟨rfl, rfl, rfl, rfl, rfl, rfl, rfl, rfl, rfl⟩
  have herase : v.Follows (v.setupCe.busStep .xCsOff false d (transactionTrace (encodeBusCmd .chipErase) [y]))
      (transactionTrace (encodeBusCmd .chipErase) [y]) d q := ⟨rfl, rfl, rfl, rfl, rfl, rfl, rfl, rfl, rfl⟩
  refine ⟨_, ?_, htag.trans ((u.enabled_follows .e x e).trans herase)⟩
  refine (run_next (State.step_idle hi hr hp hq)).trans ?_
  refine (run_append (n := 3) (State.run_wren (s := u) hi hr hc hge .e rfl)).trans ?_
  exact State.run_ce (s := v) hi hr (hc.gives hge) hgd rfl

/-- Settles O52: `State.run_erase`, `State.run_busyWait`, the acknowledgement. -/
theorem eraseRunsWhole : Obligations.EraseRunsWhole := by
  intro s x y ps last rest q hs hp hq hb hc
  obtain ⟨hi, hr, -⟩ := id hs
  have hplain : s.chip.plain := hc ▸ Chip.plain_oracle _
  obtain ⟨d, hgd, hge⟩ := Chip.gives_append (as := [x, y])
    (hc ▸ Chip.oracle_gives (x :: y :: (pollBytes ps ++ [last.1, last.2])) rest)
  obtain ⟨u, hrun, hu⟩ := State.run_erase hi hr hp hq hplain hgd
  obtain ⟨t, hpoll, ht, hclear, hcs⟩ := State.run_busyWait (s := u) (c := .e) (hu.inputs.trans hi) (hu.rst.trans hr)
    (hu.chip ▸ hplain.gives hgd) (hu.chip ▸ hge) hb
  have hall := hu.trans ht
  rw [State.pollDone_erase hclear] at hpoll
  have hn : 13 + 5 * ps.length = 8 + ((5 * ps.length + 4) + 1) := by omega
  refine ⟨(t.log (.tx 0xAA#8)).goto .idle, ?_, rfl, hall.rxq.trans hu.rxq, hall.chip, hcs, ?_⟩
  · rw [hn, run_append hrun, run_append hpoll]
    exact run_next (State.step_finalAck (s := t.goto .eAck) (hall.quiet hs) (.inr rfl))
  · rw [State.goto_hist, State.log_hist, hall.hist]
    simp [encodeBusCmd]

end Sys2Proof.Machine
end

section
/-! PROOFS. Read as a whole (R204, R145 to R149): the frame and the opening acknowledgement, then per chunk one Read Data transaction
and its bytes to the host. The opening and the chunk's end are Write's too. -/

namespace Sys2Proof.Machine

/-! ### The opening of a transfer -/

/-- The instruction of a transfer. -/
def Transfer.instr : Transfer → Instr
  | .r => .read
  | .w => .write

/-- From the tag to the first loop head: the nine frame bytes and the acknowledgement. -/
theorem State.run_transferOpening {s : State} {c : Transfer} {b : Byte} {a l : Word} {q : List Byte} (hs : s.quiet)
    (hp : s.phase = .idle) (hd : decodeTag b = c.instr) (hq : s.rxq = b :: (leBytes32 a ++ leBytes32 l ++ q)) :
    run 10 s = .next (({ s with
      phase := .ack1 c, addr := a, rem := l, rxq := q
      hist := s.hist ++ rxTrace (b :: (leBytes32 a ++ leBytes32 l)) ++ [.tx 0xAA#8] } : State).loopHead c) := by
  obtain ⟨hi, hr, ht⟩ := hs
  have htag : step s = .next (((s.setRxq (leBytes32 a ++ leBytes32 l ++ q)).log (.rx b)).goto (.param c 0)) := by
    rw [State.step_idle hi hr hp hq, hd]
    cases c <;> rfl
  have hparams := eightParameterBytesAreAddressAndLength
    (((s.setRxq (leBytes32 a ++ leBytes32 l ++ q)).log (.rx b)).goto (.param c 0)) c a l q hi hr rfl rfl
  rw [run_next (n := 9) htag, run_append (m := 8) (n := 1) hparams,
    run_next (State.step_offBus (by exact hi) (by exact hr) rfl), run_zero]
  refine congrArg Host.Outcome.next ((State.evAck1_ready (by exact ht) c).trans ?_)
  simp [State.log, State.goto, State.setRxq, rxTrace]

/-! ### The end of a chunk -/

/-- `t` is `s` with `n` bytes of the transfer moved: after the events `h`, with the chip `d` and the queue `q`. -/
structure State.Moves (s t : State) (h : List Event) (d : Chip) (q : List Byte) (n : Nat) : Prop where
  hist : t.hist = s.hist ++ h
  chip : t.chip = d
  rxq : t.rxq = q
  addr : t.addr = s.addr + BitVec.ofNat 32 n
  rem : t.rem.toNat = s.rem.toNat - n
  inputs : t.inputs = s.inputs
  rst : t.rst = s.rst
  txReady : t.txReady = s.txReady

theorem State.Moves.quiet {s t : State} {h : List Event} {d : Chip} {q : List Byte} {n : Nat} (ht : s.Moves t h d q n) (hq : s.quiet) :
    t.quiet := ⟨ht.inputs.trans hq.1, ht.rst.trans hq.2.1, ht.txReady.trans hq.2.2⟩

theorem State.Moves.goto {s t : State} {h : List Event} {d : Chip} {q : List Byte} {n : Nat} (ht : s.Moves t h d q n) (p : Phase) :
    s.Moves (t.goto p) h d q n := ⟨ht.1, ht.2, ht.3, ht.4, ht.5, ht.6, ht.7, ht.8⟩

theorem State.Moves.refl (s : State) : s.Moves s [] s.chip s.rxq 0 :=
  ⟨(List.append_nil _).symm, rfl, rfl, (BitVec.add_zero _).symm, rfl, rfl, rfl, rfl⟩

theorem State.Moves.trans {s t u : State} {h h' : List Event} {d d' : Chip} {q q' : List Byte} {m n : Nat} (ht : s.Moves t h d q m)
    (hu : t.Moves u h' d' q' n) : s.Moves u (h ++ h') d' q' (m + n) where
  hist := by rw [hu.hist, ht.hist, List.append_assoc]
  chip := hu.chip
  rxq := hu.rxq
  addr := by rw [hu.addr, ht.addr, BitVec.add_assoc, BitVec.ofNat_add]
  rem := by rw [hu.rem, ht.rem, Nat.sub_sub]
  inputs := hu.inputs.trans ht.inputs
  rst := hu.rst.trans ht.rst
  txReady := hu.txReady.trans ht.txReady

theorem chunkOf_toWord (r : Word) : (chunkOf r).setWidth 32 = BitVec.ofNat 32 (min r.toNat 256) := by
  apply BitVec.eq_of_toNat_eq
  rw [count_toWord, chunkOf_toNat, BitVec.toNat_ofNat]
  omega

/-- After the events of a chunk, `Advance` is at the next loop head with the chunk moved. -/
theorem State.Follows.advance {s t : State} {c : Transfer} {h : List Event} {d : Chip} {q : List Byte} (hr : s.rem ≠ 0)
    (hf : (s.loopHead c).Follows t h d q) :
    ∃ u, t.advance c = u.loopHead c ∧ s.Moves u h d q (min s.rem.toNat 256) := by
  have hchunk : t.chunk.setWidth 32 = BitVec.ofNat 32 (min s.rem.toNat 256) := by
    rw [hf.chunk, State.loopHead_chunk hr, chunkOf_toWord]
  have hrem : (t.rem - t.chunk.setWidth 32).toNat = s.rem.toNat - min s.rem.toNat 256 := by
    rw [hchunk, hf.rem, State.loopHead_rem, BitVec.toNat_sub_of_le (by rw [BitVec.le_def, BitVec.toNat_ofNat]; omega), BitVec.toNat_ofNat]
    omega
  refine ⟨_, rfl, ?_, hf.chip, hf.rxq, ?_, hrem, ?_, ?_, ?_⟩
  · simpa using hf.hist
  · simp [hf.addr, hchunk]
  · simpa using hf.inputs
  · simpa using hf.rst
  · simpa using hf.txReady

theorem State.loopHead_quiet {s : State} (hs : s.quiet) (c : Transfer) : (s.loopHead c).quiet := by
  simpa [State.quiet] using hs

/-! ### The buffer -/

theorem vector_take_set_succ (v : Vector Byte 256) (i : Fin 256) (b : Byte) :
    (v.set i.val b).toList.take (i.val + 1) = v.toList.take i.val ++ [b] := by
  rw [Vector.toList_set, List.take_succ_eq_append_getElem (by simp), List.take_set_of_le (Nat.le_refl _), List.getElem_set_self]

/-- Response bytes land in `buf` in order. -/
theorem State.captureFrom_buf {s : State} {i : Nat} {as : List Byte} (hd : s.xdst = .buf) (hl : i + as.length ≤ 256) :
    (s.captureFrom i as).buf.toList.take (i + as.length) = s.buf.toList.take i ++ as := by
  induction as generalizing s i with
  | nil => simp [State.captureFrom]
  | cons a as ih =>
    simp only [List.length_cons] at hl ⊢
    have hi : i < 256 := by omega
    rw [State.captureFrom_cons s ⟨i, hi⟩, Nat.add_comm as.length, ← Nat.add_assoc,
      ih (by rw [State.capture_xdst]; exact hd) (by omega), State.capture_buf_of hd, State.setBuf_buf,
      vector_take_set_succ s.buf ⟨i, hi⟩, List.append_assoc]
    rfl

/-! ### The chunks of a Read -/

/-- From `R_OUT(i)` the rest of the chunk goes to the host, then `Advance`. -/
theorem State.run_rOut {s : State} {i : Fin 256} {bs : List Byte} (hs : s.quiet) (hp : s.phase = .rOut i) (hne : bs ≠ [])
    (hb : (s.buf.toList.take s.chunk.toNat).drop i.val = bs) :
    ∃ t, run bs.length s = .next (t.advance .r) ∧ s.Follows t (txTrace bs) s.chip s.rxq := by
  obtain ⟨hi, hr, ht⟩ := id hs
  induction bs generalizing s i with
  | nil => exact absurd rfl hne
  | cons b bs ih =>
    have hlt : i.val < (s.buf.toList.take s.chunk.toNat).length := by
      by_contra hge
      rw [List.drop_eq_nil_of_le (by omega)] at hb
      exact absurd hb (by simp)
    rw [List.drop_eq_getElem_cons hlt] at hb
    obtain ⟨hbyte, hrest⟩ := List.cons.inj hb
    have hbyte : s.buf[i.val] = b := by simpa using hbyte
    have hlog : s.Follows (s.log (.tx b)) [.tx b] s.chip s.rxq := ⟨rfl, rfl, rfl, rfl, rfl, rfl, rfl, rfl, rfl⟩
    have hstep : step s = .next (s.evROut i) := by
      rw [State.step_offBus hi hr (by rw [hp]; rfl)]
      simp only [State.afterEvent, hp]
    rw [List.length_cons, run_next hstep, State.evROut_ready ht, hbyte]
    have hlen : bs.length = min s.chunk.toNat 256 - (i.val + 1) := by simp [← hrest]
    cases bs with
    | nil =>
      rw [dif_neg (by simp at hlen; omega)]
      exact ⟨_, rfl, hlog⟩
    | cons b' bs =>
      have hnext : i.val + 1 < s.chunk.toNat ∧ i.val + 1 < 256 := by simp at hlen; omega
      rw [dif_pos hnext, hbyte]
      obtain ⟨t, hrun, hf⟩ := ih (s := (s.log (.tx b)).goto (.rOut ⟨i.val + 1, hnext.2⟩)) hs rfl
        (List.cons_ne_nil b' bs) hrest hi hr ht
      exact ⟨t, hrun, (hlog.goto _).trans hf⟩

/-- One chunk of a Read: its transaction, then its bytes to the host. -/
theorem State.run_readChunk {s : State} {ans : List Byte} {d : Chip} (hs : s.quiet) (hr : s.rem ≠ 0) (hc : s.chip.plain)
    (hg : s.chip.Gives ans d) (hl : ans.length = min s.rem.toNat 256 + 4) :
    ∃ n t, run n (s.loopHead .r) = .next (t.loopHead .r) ∧ s.Moves t
      (transactionTrace (encodeBusCmd (.read (busAddr s.addr) (min s.rem.toNat 256))) ans ++ txTrace (ans.drop 4)) d s.rxq
      (min s.rem.toNat 256) := by
  have hsize : (chunkOf s.rem).toNat = min s.rem.toNat 256 := chunkOf_toNat s.rem
  have hpos : s.rem.toNat ≠ 0 := fun h => hr (BitVec.eq_of_toNat_eq h)
  let u := s.setChunk (chunkOf s.rem)
  let v := u.setupRead.captureFrom 0 (ans.drop 4)
  let w := v.busStep (.rOut 0) false d (transactionTrace (encodeBusCmd (.read (busAddr s.addr) (min s.rem.toNat 256))) ans)
  have htrans : run (ans.length + 2) (s.loopHead .r) = .next w := by
    rw [State.loopHead_read hr]
    refine (State.run_readData (s := u) hs.1 hs.2.1 hc hg ?_ ?_).trans ?_
    · show (chunkOf s.rem).toNat ≤ 256
      omega
    · exact hl.trans (congrArg (· + 4) hsize.symm)
    · show Host.Outcome.next (v.busStep _ _ _ (transactionTrace (encodeBusCmd (.read _ (chunkOf s.rem).toNat)) _)) = _
      rw [hsize]
      rfl
  have hw : (s.loopHead .r).Follows w
      (transactionTrace (encodeBusCmd (.read (busAddr s.addr) (min s.rem.toNat 256))) ans) d s.rxq := by
    rw [State.loopHead_read hr]
    constructor <;> simp [w, v, u, State.busStep]
  have hbuf : (w.buf.toList.take w.chunk.toNat).drop 0 = ans.drop 4 := by
    have h := State.captureFrom_buf (s := u.setupRead) (i := 0) (as := ans.drop 4) rfl (by simp; omega)
    have hchunk : w.chunk.toNat = 0 + (ans.drop 4).length := by
      show v.chunk.toNat = _
      simp [v, u, hsize, hl]
    rw [hchunk]
    exact h
  obtain ⟨t, ht, hf⟩ := State.run_rOut (s := w) (hw.quiet (State.loopHead_quiet hs .r)) rfl
    (List.ne_nil_of_length_pos (by simp; omega)) hbuf
  obtain ⟨x, hx, hm⟩ := (hw.trans hf).advance hr
  exact ⟨_, x, hx ▸ (run_append htrans).trans ht, hw.rxq ▸ hm⟩

/-- The chunks of a Read from its loop head, to IDLE. -/
theorem State.run_readLoop {n : Nat} {s : State} {ans : List Byte} {d : Chip} (hs : s.quiet) (hc : s.chip.plain)
    (hg : s.chip.Gives ans d) (hn : n = chunkCount s.rem.toNat) (hl : ans.length = s.rem.toNat + 4 * n) :
    ∃ k t, run k (s.loopHead .r) = .next t ∧ t.phase = .idle ∧
      s.Moves t (readTrace n s.addr s.rem.toNat ans) d s.rxq s.rem.toNat := by
  induction n generalizing s ans with
  | zero =>
    have hz : s.rem.toNat = 0 := by unfold chunkCount at hn; omega
    obtain rfl := List.eq_nil_of_length_eq_zero (by omega : ans.length = 0)
    obtain rfl := hg
    rw [State.loopHead_done .r (BitVec.eq_of_toNat_eq hz), hz]
    exact ⟨0, s.goto .idle, rfl, rfl, (State.Moves.refl s).goto .idle⟩
  | succ n ih =>
    have hpos : s.rem.toNat ≠ 0 := by intro h; rw [h] at hn; exact absurd hn (by simp [chunkCount])
    have hsplit : ans.take (min s.rem.toNat 256 + 4) ++ ans.drop (min s.rem.toNat 256 + 4) = ans := List.take_append_drop _ _
    obtain ⟨e, hge, hgd⟩ := Chip.gives_append (hsplit ▸ hg)
    obtain ⟨j, u, hu, hm⟩ := State.run_readChunk hs (word_ne_zero hpos) hc hge (by simp; omega)
    have hleft : u.rem.toNat = s.rem.toNat - min s.rem.toNat 256 := hm.rem
    obtain ⟨k, t, ht, hp, hmt⟩ := ih (s := u) (ans := ans.drop (min s.rem.toNat 256 + 4)) (hm.quiet hs) (hm.chip ▸ hc.gives hge)
      (hm.chip ▸ hgd) (by unfold chunkCount at *; omega) (by simp; omega)
    refine ⟨j + k, t, (run_append hu).trans ht, hp, ?_⟩
    have hall := hm.trans hmt
    rw [hm.addr, hleft, hm.rxq, Nat.add_sub_cancel' (Nat.min_le_left _ _)] at hall
    exact hall

/-! ### What the host receives -/

theorem txStream_append (h g : List Event) : txStream (h ++ g) = txStream h ++ txStream g := List.filterMap_append

theorem txStream_rxTrace (bs : List Byte) : txStream (rxTrace bs) = [] := by
  simp [txStream, rxTrace, List.filterMap_map, Function.comp_def, Event.txByte]

theorem txStream_txTrace (bs : List Byte) : txStream (txTrace bs) = bs := by
  simp [txStream, txTrace, List.filterMap_map, Function.comp_def, Event.txByte]

theorem txStream_exchangeTrace (mosi miso : List Byte) : txStream (exchangeTrace mosi miso) = [] := by
  induction mosi generalizing miso with
  | nil => rfl
  | cons o mosi ih =>
    cases miso with
    | nil => rfl
    | cons i miso => exact ih miso

theorem txStream_transactionTrace (mosi miso : List Byte) : txStream (transactionTrace mosi miso) = [] := by
  refine (txStream_append (exchangeTrace mosi miso) [.csDeassert]).trans ?_
  rw [txStream_exchangeTrace]
  rfl

theorem txStream_readTrace (n : Nat) (a : Word) (l : Nat) (ans : List Byte) : txStream (readTrace n a l ans) = readData n l ans := by
  induction n generalizing a l ans with
  | zero => rfl
  | succ n ih => simp only [readTrace, readData, txStream_append, txStream_transactionTrace, txStream_txTrace, ih, List.nil_append]

theorem readData_length {n l : Nat} {ans : List Byte} (hn : n = chunkCount l) (hl : ans.length = l + 4 * n) :
    (readData n l ans).length = l := by
  induction n generalizing l ans with
  | zero => unfold chunkCount at hn; rw [readData, List.length_nil]; omega
  | succ n ih =>
    have hpos : l ≠ 0 := by rintro rfl; exact absurd hn (by simp [chunkCount])
    have hrest := ih (l := l - min l 256) (ans := ans.drop (min l 256 + 4)) (by unfold chunkCount at *; omega) (by simp; omega)
    simp only [readData, List.length_append, hrest, List.length_drop, List.length_take]
    omega

/-- Settles O50: the opening, `State.run_readLoop`, and the bytes sent among the events. -/
theorem readRunsWhole : Obligations.ReadRunsWhole := by
  intro s a l ans rest q hs hp hq hc hl
  have hopen := State.run_transferOpening (c := .r) hs hp rfl (by rw [hq]; rfl)
  obtain ⟨k, t, hrun, hidle, hm⟩ := State.run_readLoop (s := { s with
      phase := .ack1 .r, addr := a, rem := l, rxq := q
      hist := s.hist ++ rxTrace (encodeFrame (.read a l)) ++ [.tx 0xAA#8] })
    hs (hc ▸ Chip.plain_oracle _) (hc ▸ Chip.oracle_gives ans rest) rfl hl
  refine ⟨10 + k, t, (run_append hopen).trans hrun, hidle, hm.rxq, hm.chip, ?_, ?_, hm.hist, ?_, readData_length rfl hl⟩
  · exact hm.addr.trans (congrArg (a + ·) ((BitVec.ofNat_toNat 32 l).trans (BitVec.setWidth_eq l)))
  · exact BitVec.eq_of_toNat_eq (hm.rem.trans (Nat.sub_self _))
  · rw [hm.hist]
    simp only [txStream_append, txStream_rxTrace, txStream_readTrace, List.append_nil]
    simp [txStream, Event.txByte]

end Sys2Proof.Machine
end

section
/-! PROOFS. Write as a whole (R210 to R213, R145): the opening, then per chunk the payload bytes, Write Enable and the gap, Page Program and
the busy-wait, then the closing acknowledgement. -/

namespace Sys2Proof.Machine

/-! ### The payload of a chunk -/

/-- From `W_IN(i)` the rest of the chunk comes in and fills the buffer, then Write Enable is set up. -/
theorem State.run_wIn {s : State} {i : Fin 256} {bs q : List Byte} (hi : s.inputs = []) (hr : s.rst = false) (hp : s.phase = .wIn i)
    (hq : s.rxq = bs ++ q) (hne : bs ≠ []) (hl : i.val + bs.length = s.chunk.toNat) (hmax : s.chunk.toNat ≤ 256) :
    ∃ t, run bs.length s = .next (t.setupWren .w) ∧ s.Follows t (rxTrace bs) s.chip q ∧
      t.buf.toList.take s.chunk.toNat = s.buf.toList.take i.val ++ bs := by
  induction bs generalizing s i with
  | nil => exact absurd rfl hne
  | cons b bs ih =>
    let u := ((s.setRxq (bs ++ q)).log (.rx b)).setBuf i b
    have hu : s.Follows u [.rx b] s.chip (bs ++ q) := ⟨rfl, rfl, rfl, rfl, rfl, rfl, rfl, rfl, rfl⟩
    have hbuf : u.buf.toList.take (i.val + 1) = s.buf.toList.take i.val ++ [b] := vector_take_set_succ s.buf i b
    have hstep : step s = .next (s.evWIn i) := by
      rw [State.step_offBus hi hr (by rw [hp]; rfl)]
      simp only [State.afterEvent, hp]
    rw [List.length_cons, run_next hstep, State.evWIn_cons hq]
    simp only [List.length_cons] at hl
    cases bs with
    | nil =>
      rw [dif_neg (by simp at hl; omega)]
      exact ⟨u, rfl, hu, by rw [← hl]; exact hbuf⟩
    | cons b' bs =>
      have hnext : i.val + 1 < s.chunk.toNat ∧ i.val + 1 < 256 := by simp only [List.length_cons] at hl; omega
      rw [dif_pos hnext]
      obtain ⟨t, hrun, hf, ht⟩ := ih (s := u.goto (.wIn ⟨i.val + 1, hnext.2⟩)) hi hr rfl rfl (List.cons_ne_nil b' bs)
        (by simp only [List.length_cons] at hl ⊢; exact (by omega : i.val + 1 + (bs.length + 1) = s.chunk.toNat)) hmax
      refine ⟨t, hrun, (hu.goto _).trans hf, ht.trans ?_⟩
      exact (congrArg (· ++ _) hbuf).trans (List.append_assoc _ _ _)

/-! ### The chunks of a Write -/

/-- The events of one chunk of a Write at the address `a`. -/
def chunkTrace (a : Word) (data : List Byte) (c : ChunkAnswers) : List Event :=
  rxTrace data ++ transactionTrace (encodeBusCmd .wren) [c.wren] ++ [.wait .wrenGap] ++
    transactionTrace (encodeBusCmd (.program (busAddr a) data)) c.program ++ busyWaitTrace c.busy c.last

theorem writeTrace_cons (a : Word) (payload : List Byte) (c : ChunkAnswers) (cs : List ChunkAnswers) :
    writeTrace a payload (c :: cs) = chunkTrace a (payload.take 256) c ++
      writeTrace (a + BitVec.ofNat 32 (payload.take 256).length) (payload.drop 256) cs := rfl

theorem ChunkAnswers.bytes_eq (c : ChunkAnswers) :
    c.bytes = [c.wren] ++ (c.program ++ (pollBytes c.busy ++ [c.last.1, c.last.2])) := by
  simp [ChunkAnswers.bytes]

/-- The bus side of a chunk of a Write, from Write Enable to the busy-wait's end. -/
theorem State.run_programChunk {s : State} {c : ChunkAnswers} {data : List Byte} {d : Chip} (hi : s.inputs = []) (hr : s.rst = false)
    (hc : s.chip.plain) (hg : s.chip.Gives c.bytes d) (hmax : s.chunk.toNat ≤ 256) (hbuf : s.buf.toList.take s.chunk.toNat = data)
    (hl : c.program.length = s.chunk.toNat + 4) (hb : pollsEnd c.busy c.last) :
    ∃ n t, run n (s.setupWren .w) = .next (t.advance .w) ∧ s.Follows t (transactionTrace (encodeBusCmd .wren) [c.wren] ++
      [.wait .wrenGap] ++ (transactionTrace (encodeBusCmd (.program (busAddr s.addr) data)) c.program ++
        busyWaitTrace c.busy c.last)) d s.rxq := by
  obtain ⟨e, hge, hg⟩ := Chip.gives_append (c.bytes_eq ▸ hg)
  obtain ⟨f, hgf, hgd⟩ := Chip.gives_append hg
  let u := s.enabled .w c.wren e
  let v := u.setupPp.busStep .xCsOff false f (transactionTrace (encodeBusCmd (.program (busAddr s.addr) data)) c.program)
  have hpp : run (c.program.length + 2) u.setupPp = .next (v.setupRdsr .w) := by
    have h := State.run_pp (s := u) hi hr (hc.gives hge) hgf hmax hl
    rw [show u.buf.toList.take u.chunk.toNat = data from hbuf] at h
    exact h
  have hv : u.Follows v (transactionTrace (encodeBusCmd (.program (busAddr s.addr) data)) c.program) f s.rxq :=
    ⟨rfl, rfl, rfl, rfl, rfl, rfl, rfl, rfl, rfl⟩
  obtain ⟨t, hpoll, ht, hclear, -⟩ := State.run_busyWait (s := v) (c := .w) hi hr ((hc.gives hge).gives hgf) hgd hb
  rw [State.pollDone_write hclear] at hpoll
  refine ⟨4 + (c.program.length + 2 + (5 * c.busy.length + 4)), t, ?_, (s.enabled_follows .w c.wren e).trans (hv.trans ht)⟩
  rw [run_append (State.run_wren hi hr hc hge .w rfl)]
  exact (run_append hpp).trans hpoll

/-- One chunk of a Write: its payload bytes, then its bus side. -/
theorem State.run_writeChunk {s : State} {c : ChunkAnswers} {data q : List Byte} {d : Chip} (hs : s.quiet) (hr : s.rem ≠ 0)
    (hc : s.chip.plain) (hg : s.chip.Gives c.bytes d) (hq : s.rxq = data ++ q) (hl : data.length = min s.rem.toNat 256)
    (hlp : c.program.length = data.length + 4) (hb : pollsEnd c.busy c.last) :
    ∃ n t, run n (s.loopHead .w) = .next (t.loopHead .w) ∧ s.Moves t (chunkTrace s.addr data c) d q (min s.rem.toNat 256) := by
  have hpos : s.rem.toNat ≠ 0 := fun h => hr (BitVec.eq_of_toNat_eq h)
  have hchunk : (s.loopHead .w).chunk.toNat = data.length := by rw [State.loopHead_chunk hr, chunkOf_toNat, hl]
  obtain ⟨hi, hrst, -⟩ := State.loopHead_quiet hs .w
  obtain ⟨u, hu, hfu, hbuf⟩ := State.run_wIn (s := s.loopHead .w) (i := 0) (bs := data) (q := q) hi hrst
    (by rw [State.loopHead_write hr]; rfl) (by simpa using hq) (List.ne_nil_of_length_pos (by omega))
    (by simpa using hchunk.symm) (by omega)
  have huc : u.chunk.toNat = data.length := (congrArg BitVec.toNat hfu.chunk).trans hchunk
  have hchip : u.chip = s.chip := by simpa using hfu.chip
  have haddr : u.addr = s.addr := by simpa using hfu.addr
  obtain ⟨n, t, ht, hft⟩ := State.run_programChunk (s := u) (c := c) (data := data) (d := d) (hfu.inputs.trans hi) (hfu.rst.trans hrst)
    (hchip ▸ hc) (hchip ▸ hg) (by omega) (by rw [huc, ← hchunk]; simpa using hbuf) (by omega) hb
  obtain ⟨x, hx, hm⟩ := (hfu.trans hft).advance hr
  rw [hx] at ht
  rw [haddr, hfu.rxq] at hm
  refine ⟨data.length + n, x, (run_append hu).trans ht, ?_⟩
  simpa [chunkTrace] using hm

/-- The chunks of a Write from its loop head, to the closing acknowledgement. -/
theorem State.run_writeLoop {cs : List ChunkAnswers} {s : State} {payload q : List Byte} {d : Chip} (hs : s.quiet) (hc : s.chip.plain)
    (hg : s.chip.Gives (cs.flatMap ChunkAnswers.bytes) d) (hq : s.rxq = payload ++ q) (hl : payload.length = s.rem.toNat)
    (ha : answersFit payload cs) :
    ∃ k t, run k (s.loopHead .w) = .next t ∧ t.phase = .ack2 ∧ s.Moves t (writeTrace s.addr payload cs) d q payload.length := by
  induction cs generalizing s payload with
  | nil =>
    obtain rfl : payload = [] := ha
    obtain rfl := hg
    obtain rfl : s.rxq = q := hq
    rw [State.loopHead_done .w (BitVec.eq_of_toNat_eq hl.symm)]
    exact ⟨0, s.goto .ack2, rfl, rfl, (State.Moves.refl s).goto .ack2⟩
  | cons c cs ih =>
    obtain ⟨hne, hlp, hb, ha⟩ := ha
    obtain ⟨e, hge, hgd⟩ := Chip.gives_append hg
    have hpos := List.length_pos_iff.mpr hne
    have hlen : (payload.take 256).length = min s.rem.toNat 256 := by rw [List.length_take, hl, Nat.min_comm]
    obtain ⟨j, u, hu, hm⟩ := State.run_writeChunk (q := payload.drop 256 ++ q) hs (word_ne_zero (by omega)) hc hge
      (by rw [hq, ← List.append_assoc, List.take_append_drop]) hlen hlp hb
    obtain ⟨k, t, ht, hp, hmt⟩ := ih (s := u) (hm.quiet hs) (hm.chip ▸ hc.gives hge) (hm.chip ▸ hgd) hm.rxq
      (by rw [hm.rem, List.length_drop, hl]; omega) ha
    have hall := hm.trans hmt
    rw [hm.addr, ← hlen, ← writeTrace_cons, ← List.length_append, List.take_append_drop] at hall
    exact ⟨j + k, t, (run_append hu).trans ht, hp, hall⟩

/-- Settles O51: the opening, `State.run_writeLoop`, the closing acknowledgement. -/
theorem writeRunsWhole : Obligations.WriteRunsWhole := by
  intro s a payload cs rest q hs hp hlt hq ha hc
  have hl : payload.length = (BitVec.ofNat 32 payload.length).toNat := by rw [BitVec.toNat_ofNat, Nat.mod_eq_of_lt hlt]
  have hopen := State.run_transferOpening (c := .w) (b := 0x57#8) (a := a) (l := BitVec.ofNat 32 payload.length)
    (q := payload ++ q) hs hp rfl (by rw [hq]; simp [encodeFrame])
  obtain ⟨k, t, hrun, hack, hm⟩ := State.run_writeLoop (q := q) (s := { s with
      phase := .ack1 .w, addr := a, rem := BitVec.ofNat 32 payload.length, rxq := payload ++ q
      hist := s.hist ++ rxTrace (0x57#8 :: (leBytes32 a ++ leBytes32 (BitVec.ofNat 32 payload.length))) ++ [.tx 0xAA#8] })
    hs (hc ▸ Chip.plain_oracle _) (hc ▸ Chip.oracle_gives _ rest) rfl hl ha
  refine ⟨10 + (k + 1), (t.log (.tx 0xAA#8)).goto .idle, ?_, rfl, hm.rxq, hm.chip, hm.addr, ?_, ?_⟩
  · rw [run_append hopen, run_append hrun]
    exact run_next (State.step_finalAck (hm.quiet hs) (.inl hack))
  · exact BitVec.eq_of_toNat_eq (hm.rem.trans (by simp [← hl]))
  · rw [State.goto_hist, State.log_hist, hm.hist]

end Sys2Proof.Machine
end

section
/-! PROOFS. The busy-wait on a chip that never clears bit 0 (R233, R254, R295): it goes round for ever, so the command hangs. -/

namespace Sys2Proof.Machine

/-! ### Round and round -/

/-- The descriptor of a status poll. -/
def State.pollsFor (s : State) (c : WriteClass) : Prop :=
  s.xop = 0x05#8 ∧ s.xhasAddr = false ∧ s.xnpay = 0 ∧ s.xnresp = 1 ∧ s.xdst = .sr ∧ s.xret = .pollDone c

/-- Somewhere in a busy-wait whose polls read bit 0 set: before the response, or after it with the bit captured. -/
def State.inBusyWait (s : State) (c : WriteClass) : Prop :=
  (s.phase = .xCsOn ∨ s.phase = .xOp ∨ s.phase = .xResp 0) ∨ (s.phase = .xCsOff ∨ s.phase = .pollWait c) ∧ s.busyFlag = true

/-- The block in the busy-wait of `c`, on a quiet host and a chip that answers `b` for ever. -/
structure State.HeldBusy (c : WriteClass) (b : Byte) (s : State) : Prop where
  inputs : s.inputs = []
  rst : s.rst = false
  chip : s.chip = .steady [] b
  descriptor : s.pollsFor c
  place : s.inBusyWait c

theorem Chip.steady_after (b : Byte) (h : List Event) (e : Event) : (Chip.steady [] b).after h e = .steady [] b := by
  cases e <;> rfl

/-- The event neither takes a byte from the host nor sends one. -/
def Event.internal (e : Event) : Prop := e.rxByte = none ∧ e.txByte = none

theorem State.setupRdsr_heldBusy {s : State} {b : Byte} (c : WriteClass) (hi : s.inputs = []) (hr : s.rst = false)
    (hc : s.chip = .steady [] b) : (s.setupRdsr c).HeldBusy c b :=
  ⟨hi, hr, hc, ⟨rfl, rfl, rfl, rfl, rfl, rfl⟩, .inl (.inl rfl)⟩

section
variable {s : State} {c : WriteClass} {b : Byte} (h : s.HeldBusy c b)
include h

/-- The events of the busy-wait, one after another. -/
theorem State.HeldBusy.place_afterEvent (hb : b.getLsbD 0 = true) : s.afterEvent.pollsFor c ∧ s.afterEvent.inBusyWait c := by
  obtain ⟨-, -, hchip, hd, hplace⟩ := h
  obtain ⟨hop, ha, hpay, hresp, hdst, hret⟩ := id hd
  have hplain : s.chip.plain := hchip ▸ Chip.plain_steady [] b
  have hx : ∀ hist o, s.chip.exchange hist o = (b, .steady [] b) := fun _ _ => by rw [hchip]; rfl
  obtain (hp | hp | hp) | ⟨hp | hp, hf⟩ := hplace <;> rw [State.afterEvent, hp]
  · simp only [State.evCsOn_of_plain hplain]
    exact ⟨hd, .inl (.inr (.inl rfl))⟩
  · have hafter : s.afterOp = .xResp 0 := by simp [State.afterOp, State.afterAddr, State.afterPay, ha, hpay, hresp]
    simp only [State.evOp_of_answer hx, hafter]
    exact ⟨hd, .inl (.inr (.inr rfl))⟩
  · simp only [State.evResp_of_answer hx, State.capture_sr_of hdst, hresp]
    exact ⟨hd, .inr ⟨.inl rfl, hb⟩⟩
  · have hgo : s.evCsOff = (s.busStep .xCsOff false s.chip [.csDeassert]).goto (.pollWait c) := by
      rw [State.evCsOff, State.csDeassert_of_plain hplain, hp,
        State.continueAt_pollDone (by exact hret), State.pollDone_busy c (by exact hf)]
    simp only [hgo]
    exact ⟨hd, .inr ⟨.inr rfl, hf⟩⟩
  · exact ⟨⟨rfl, rfl, rfl, rfl, rfl, rfl⟩, .inl (.inl rfl)⟩

theorem State.HeldBusy.phase_ne_idle : s.phase ≠ .idle := by
  obtain (hp | hp | hp) | ⟨hp | hp, -⟩ := h.place <;> simp [hp]

theorem State.HeldBusy.offered_none : s.offered = none := by
  obtain (hp | hp | hp) | ⟨hp | hp, -⟩ := h.place <;> simp [State.offered, hp]

/-- One internal event takes place, whatever the phase. -/
theorem State.HeldBusy.performs : ∃ e : Event, Event.internal e ∧ s.Performs e s.afterEvent := by
  obtain ⟨hb, -⟩ | ⟨-, e, hn, hperf⟩ := s.afterEvent_performs
  · rw [State.blocked_eq] at hb
    obtain (hp | hp | hp) | ⟨hp | hp, -⟩ := h.place <;> simp [hp] at hb
  · refine ⟨e, ?_, hperf⟩
    obtain (hp | hp | hp) | ⟨hp | hp, -⟩ := h.place <;> simp only [State.names, hp] at hn <;> exact hn ▸ ⟨rfl, rfl⟩

theorem State.HeldBusy.afterEvent (hb : b.getLsbD 0 = true) : s.afterEvent.HeldBusy c b := by
  obtain ⟨e, -, hperf⟩ := h.performs
  obtain ⟨hd, hplace⟩ := h.place_afterEvent hb
  exact ⟨hperf.inputs.trans h.inputs, hperf.rst.trans h.rst, by rw [hperf.chip, h.chip, Chip.steady_after], hd, hplace⟩

theorem State.HeldBusy.step_eq : step s = .next s.afterEvent := by
  by_cases hp : s.phase.onBus = true
  · exact State.OnBus.step ⟨h.inputs, h.rst, _, by rw [h.descriptor.1]; rfl⟩ hp
  · exact State.step_offBus h.inputs h.rst (Bool.eq_false_of_not_eq_true hp)

theorem State.HeldBusy.outside : s.afterEvent.rxq = s.rxq ∧ rxStream s.afterEvent.hist = rxStream s.hist ∧
    txStream s.afterEvent.hist = txStream s.hist ∧ s.afterEvent.hist ≠ s.hist := by
  obtain ⟨e, ⟨hrx, htx⟩, hperf⟩ := h.performs
  refine ⟨?_, ?_, ?_, ?_⟩
  · rw [hperf.rxq, hrx]; rfl
  · simp [hperf.hist, rxStream, hrx]
  · simp [hperf.hist, txStream, htx]
  · simp [hperf.hist]

end

/-! ### For ever -/

/-- The states of the busy-wait, one step after another. -/
def State.waiting (s : State) (n : Nat) : State := State.afterEvent^[n] s

theorem State.waiting_succ (s : State) (n : Nat) : s.waiting (n + 1) = (s.waiting n).afterEvent :=
  Function.iterate_succ_apply' State.afterEvent n s

section
variable {s : State} {c : WriteClass} {b : Byte} (h : s.HeldBusy c b) (hb : b.getLsbD 0 = true)
include h hb

theorem State.HeldBusy.waiting (n : Nat) : (s.waiting n).HeldBusy c b := by
  induction n with
  | zero => exact h
  | succ n ih => exact s.waiting_succ n ▸ ih.afterEvent hb

theorem State.HeldBusy.execution : s.execution s.waiting :=
  ⟨rfl, fun n => s.waiting_succ n ▸ (h.waiting hb n).step_eq⟩

theorem State.HeldBusy.hist_ne (n : Nat) : (s.waiting (n + 1)).hist ≠ (s.waiting n).hist := by
  obtain ⟨-, -, -, hne⟩ := (h.waiting hb n).outside
  exact s.waiting_succ n ▸ hne

theorem State.HeldBusy.weaklyFair : WeaklyFair s.waiting := fun n => ⟨n, Nat.le_refl n, h.hist_ne hb n⟩

/-- The transport is never used: no byte is taken, sent or offered. -/
theorem State.HeldBusy.host_untouched (n : Nat) : (s.waiting n).rxq = s.rxq ∧ rxStream (s.waiting n).hist = rxStream s.hist ∧
    txStream (s.waiting n).hist = txStream s.hist := by
  induction n with
  | zero => exact ⟨rfl, rfl, rfl⟩
  | succ n ih =>
    obtain ⟨hq, hrx, htx⟩ := ih
    obtain ⟨hq', hrx', htx', -⟩ := (h.waiting hb n).outside
    rw [s.waiting_succ]
    exact ⟨hq'.trans hq, hrx'.trans hrx, htx'.trans htx⟩

theorem State.HeldBusy.hostAccepts : HostAccepts s.waiting := fun n ho => by
  rw [(h.waiting hb n).offered_none] at ho
  exact absurd ho Bool.noConfusion

/-- Where a poll has been read its bit 0 is set, and IDLE is never reached: after a wait the chip never clears. -/
theorem State.HeldBusy.not_chipClears {n : Nat} (hp : (s.waiting n).phase = .pollWait c) : ¬ ChipClears s.waiting := by
  intro hclears
  obtain ⟨m, -, ⟨hoff, -, hf⟩ | hidle⟩ := hclears n c hp
  · obtain hearly | ⟨-, hbusy⟩ := (h.waiting hb m).place
    · simp [hoff] at hearly
    · exact absurd (hbusy.symm.trans hf) Bool.noConfusion
  · exact (h.waiting hb m).phase_ne_idle hidle

theorem State.HeldBusy.hung : s.observed .hung :=
  State.hung_of_execution (h.execution hb) (fun n => (h.waiting hb (n + 1)).phase_ne_idle) (h.weaklyFair hb)

end

theorem State.hung_fails {s : State} (h : s.observed .hung) (P : State → Prop) : ¬ s.succeeds P :=
  State.observed_fails h (fun t => by simp) P

/-! ### From the first poll -/

theorem pollBytes_replicate (n : Nat) (b : Byte) : pollBytes (List.replicate n (b, b)) = List.replicate (2 * n) b := by
  induction n with
  | zero => rfl
  | succ n ih => rw [List.replicate_succ, pollBytes_cons, ih]; rfl

section
variable {s : State} {b : Byte} (hi : s.inputs = []) (hr : s.rst = false) (hc : s.chip = .steady [] b)
include hi hr hc

/-- Five steps a round, from the start of a poll. -/
theorem State.waiting_rounds (c : WriteClass) (hb : b.getLsbD 0 = true) (n : Nat) :
    ((s.setupRdsr c).waiting (5 * n)).hist = s.hist ++ busyTrace (List.replicate n (b, b)) := by
  have hg : s.chip.Gives (pollBytes (List.replicate n (b, b))) (.steady [] b) := by
    rw [pollBytes_replicate, hc]
    exact Chip.steady_gives_replicate _ b
  obtain ⟨t, ht, hf⟩ := State.run_busy (c := c) hi hr (hc ▸ Chip.plain_steady [] b) hg fun p hp => by
    rw [List.eq_of_mem_replicate hp]
    exact hb
  have he := State.execution_run ((State.setupRdsr_heldBusy c hi hr hc).execution hb) (5 * n)
  rw [List.length_replicate] at ht
  rw [← Host.Outcome.next.inj (ht.symm.trans he)]
  exact hf.hist

/-- The wait of the first round. -/
theorem State.waiting_pollWait (c : WriteClass) (hb : b.getLsbD 0 = true) : ((s.setupRdsr c).waiting 4).phase = .pollWait c := by
  have ht := State.run_rdsr hi hr (hc ▸ Chip.plain_steady [] b) (hc ▸ Chip.steady_gives_replicate 2 b) c (p := (b, b)) rfl
  rw [State.pollDone_busy c (by exact hb)] at ht
  have he := State.execution_run ((State.setupRdsr_heldBusy c hi hr hc).execution hb) 4
  rw [← Host.Outcome.next.inj (ht.symm.trans he)]
  rfl

end

/-! ### From the tag of an Erase -/

/-- What hangs after a transaction of the opcode alone hangs before it. -/
theorem State.hung_of_opcode {s : State} {a : Byte} {d : Chip} (hb : s.OnBus) (hp : s.phase = .xCsOn) (hc : s.chip.plain)
    (hg : s.chip.Gives [a] d) (ho : s.afterOp = .xCsOff)
    (hi : (s.busStep .xCsOff false d (transactionTrace [s.xop] [a])).continueAt.phase ≠ .idle)
    (hh : (s.busStep .xCsOff false d (transactionTrace [s.xop] [a])).continueAt.observed .hung) : s.observed .hung := by
  obtain ⟨e, hx, rfl⟩ := id hg
  let u := s.busStep .xOp true s.chip [.csAssert]
  let v := s.busStep .xCsOff true e [.csAssert, .xfer s.xop a]
  have hselect : step s = .next u := by
    rw [hb.step (by rw [hp]; rfl), State.afterEvent, hp]
    simp only [State.evCsOn_of_plain hc, u]
  have hopcode : step u = .next v := by
    rw [(hb.busStep _ _ _ _).step rfl]
    refine congrArg Host.Outcome.next ((State.evOp_of_answer (s := u) hx).trans ?_)
    rw [State.busStep_busStep, show u.afterOp = .xCsOff from ho]
    rfl
  have hrelease : step v = .next (s.busStep .xCsOff false e (transactionTrace [s.xop] [a])).continueAt := by
    rw [State.OnBus.step (s := v) (hb.busStep _ _ _ _) rfl]
    refine congrArg (fun t => Host.Outcome.next (State.continueAt t)) ((State.csDeassert_of_plain (s := v) (hc.gives hg)).trans ?_)
    exact State.busStep_busStep _ _ _ _ _ _ _ _ _
  exact State.hung_of_step hselect nofun (State.hung_of_step hopcode nofun (State.hung_of_step hrelease hi hh))

/-- An Erase on a chip that answers `x`, `y` and then a byte with bit 0 set for ever hangs. -/
theorem State.hung_of_erase {s : State} {x y b : Byte} {q : List Byte} (hi : s.inputs = []) (hr : s.rst = false) (hp : s.phase = .idle)
    (hq : s.rxq = encodeFrame .erase ++ q) (hc : s.chip = .steady [x, y] b) (hb : b.getLsbD 0 = true) : s.observed .hung := by
  let u := (s.setRxq q).log (.rx 0x45#8)
  let v := (u.enabled .e x (.steady [y] b)).setupCe
  let w := v.busStep .xCsOff false (.steady [] b) (transactionTrace (encodeBusCmd .chipErase) [y])
  have hpoll : (w.setupRdsr .e).observed .hung := (State.setupRdsr_heldBusy (s := w) .e hi hr rfl).hung hb
  have herase : v.observed .hung := State.hung_of_opcode (d := .steady [] b) ⟨hi, hr, _, rfl⟩ rfl (Chip.plain_steady [y] b)
    (Chip.steady_gives [y] [] b) rfl nofun hpoll
  have hgap : ((u.setupWren .e).busStep (.gap .e) false (.steady [y] b) (transactionTrace (encodeBusCmd .wren) [x])).observed .hung :=
    State.hung_of_step (t := v) (State.step_gap (c := .e) (by exact hi) (by exact hr) rfl) nofun herase
  have hchip : (u.setupWren .e).chip = .steady [x, y] b := hc
  have hwren : (u.setupWren .e).observed .hung := State.hung_of_opcode (d := .steady [y] b) ⟨hi, hr, _, rfl⟩ rfl
    (hchip ▸ Chip.plain_steady _ _) (hchip ▸ Chip.steady_gives [x] [y] b) rfl nofun hgap
  exact State.hung_of_step (t := u.setupWren .e) (State.step_idle hi hr hp hq) nofun hwren

/-- Settles O53: `State.run_busy` for the polls, `State.HeldBusy` for the chip that never clears, and the way from an Erase's tag to its
first poll. -/
theorem busyChipHoldsTheBlock : Obligations.BusyChipHoldsTheBlock := by
  refine ⟨?_, ?_, ?_⟩
  · rintro s c ps rest hs ⟨u, rfl⟩ hb hc
    obtain ⟨t, hrun, hf⟩ := State.run_busy (s := u) (c := c) hs.1 hs.2.1 (hc ▸ Chip.plain_oracle _)
      (hc ▸ Chip.oracle_gives _ rest) hb
    exact ⟨_, hrun, rfl, rfl, rfl, hf.rxq, hf.addr, hf.rem, hf.chip, hf.hist⟩
  · rintro s c b hs ⟨u, rfl⟩ hc hb
    have h := State.setupRdsr_heldBusy c (s := u) hs.1 hs.2.1 hc
    have hwait := State.waiting_pollWait (s := u) hs.1 hs.2.1 hc c hb
    have hrounds := State.waiting_rounds (s := u) hs.1 hs.2.1 hc c hb
    refine ⟨⟨(u.setupRdsr c).waiting, h.execution hb, h.weaklyFair hb, h.hostAccepts hb, h.not_chipClears hb hwait, ?_, ?_⟩,
      h.hung hb, State.hung_fails (h.hung hb)⟩
    · exact fun n => ⟨(h.waiting hb n).phase_ne_idle, h.host_untouched hb n⟩
    · exact hrounds
  · intro s x y b q hs hp hq hc hb
    have hh := State.hung_of_erase hs.1 hs.2.1 hp hq hc hb
    exact ⟨hh, State.hung_fails hh⟩

end Sys2Proof.Machine
end

section
/-! PROOFS. Transactions on the reference chip (D23): the bytes of one accumulate, and at the release it takes effect. -/

namespace Sys2Proof.Machine

/-! ### The exchanges of a transaction -/

/-- The exchanges of the bytes of a transaction: the answers, and the chip after them. -/
def RefChip.exchangeAll (c : RefChip) : List Byte → List (Option Byte) × RefChip
  | [] => ([], c)
  | o :: os => ((c.exchange o).1 :: ((c.exchange o).2.exchangeAll os).1, ((c.exchange o).2.exchangeAll os).2)

theorem RefChip.transaction_eq (c : RefChip) (n : Nat) (mosi : List Byte) :
    c.transaction n mosi = ((c.select.exchangeAll mosi).1, (c.select.exchangeAll mosi).2.deselect n) := by
  have hfold : ∀ (acc : List (Option Byte)) (d : RefChip),
      mosi.foldl (fun p o => let x := p.2.exchange o; (p.1 ++ [x.1], x.2)) (acc, d) =
        (acc ++ (d.exchangeAll mosi).1, (d.exchangeAll mosi).2) := by
    induction mosi with
    | nil => intro acc d; simp [RefChip.exchangeAll]
    | cons o os ih => intro acc d; simp [RefChip.exchangeAll, ih]
  simp only [RefChip.transaction, hfold, List.nil_append]

/-- In any transaction but a status poll an exchange only adds its byte to the transaction. -/
theorem RefChip.exchange_adds {c : RefChip} {o : Byte} (h : (c.cmd ++ [o]).head? ≠ some 0x05#8) :
    (c.exchange o).2 = { c with cmd := c.cmd ++ [o] } := by
  unfold RefChip.exchange
  cases hc : c.cmd with
  | nil => rfl
  | cons op args =>
    have hop : op ≠ 0x05#8 := fun e => h (by rw [hc, e]; rfl)
    simp only [if_neg hop]
    split_ifs
    · rfl
    · split <;> rfl
    · rfl

theorem RefChip.exchangeAll_adds {c : RefChip} {os : List Byte} (h : (c.cmd ++ os).head? ≠ some 0x05#8) :
    (c.exchangeAll os).2 = { c with cmd := c.cmd ++ os } := by
  induction os generalizing c with
  | nil => simp [RefChip.exchangeAll]
  | cons o os ih =>
    rw [List.append_cons] at h
    have hfirst : (c.cmd ++ [o]).head? ≠ some 0x05#8 := by
      rwa [List.head?_append_of_ne_nil _ (by simp)] at h
    rw [RefChip.exchangeAll, RefChip.exchange_adds hfirst, ih (c := { c with cmd := c.cmd ++ [o] }) h, ← List.append_cons]

/-- A transaction but a status poll leaves what its command performs. -/
theorem RefChip.transaction_performs {c : RefChip} {b : BusCmd} (n : Nat) (hd : decodeBusCmd (encodeBusCmd b) = .ok b)
    (hb : b ≠ .rdsr) : (c.transaction n (encodeBusCmd b)).2 =
      { ({ c with cmd := encodeBusCmd b } : RefChip).perform n (.ok b) with cmd := [] } := by
  have hop : (c.select.cmd ++ encodeBusCmd b).head? ≠ some 0x05#8 := by
    cases b with
    | rdsr => exact absurd rfl hb
    | _ => simp [encodeBusCmd]
  rw [RefChip.transaction_eq, RefChip.exchangeAll_adds hop, RefChip.deselect, RefChip.select_cmd, List.nil_append, hd]
  rfl

theorem RefChip.transaction_wren (c : RefChip) (n : Nat) :
    (c.transaction n (encodeBusCmd .wren)).2 = { c with wel := true, cmd := [] } :=
  RefChip.transaction_performs n rfl (by simp)

/-! ### The latch -/

/-- Settles O57: the effect of each command, with the latch set and with it clear. -/
theorem chipEraseNeedsWriteEnable : Obligations.ChipEraseNeedsWriteEnable := by
  intro c k m x a data
  refine ⟨?_, fun hw => ⟨?_, ?_⟩⟩
  · rw [RefChip.transaction_wren, RefChip.transaction_performs m rfl (by simp)]
    simp [RefChip.perform, RefChip.peek, Memory.read, Memory.erased]
  · rw [RefChip.transaction_performs m rfl (by simp)]
    simp [RefChip.perform, hw]
  · rw [RefChip.transaction_performs m (decodeBusCmd_program a data) (by simp)]
    simp [RefChip.perform, hw]

/-! ### Programming within a page -/

theorem and_page_mask (x : BusAddr) : x &&& 0xFFFF00#24 = (x >>> 8) <<< 8 := by
  apply BitVec.eq_of_getLsbD_eq
  intro i hi
  interval_cases i <;> simp

/-- Within the page the payload's addresses follow one another. -/
theorem RefChip.pageAddr_toNat {a : BusAddr} {i : Nat} (h : a.toNat % 256 + i < 256) :
    (RefChip.pageAddr a i).toNat = a.toNat + i := by
  have hlt := a.isLt
  have hsum : (a + BitVec.ofNat 24 i).toNat = a.toNat + i := by
    rw [BitVec.toNat_add, BitVec.toNat_ofNat]
    omega
  have hpage : a >>> 8 = (a + BitVec.ofNat 24 i) >>> 8 := by
    apply BitVec.eq_of_toNat_eq
    rw [BitVec.toNat_ushiftRight, BitVec.toNat_ushiftRight, hsum, Nat.shiftRight_eq_div_pow, Nat.shiftRight_eq_div_pow]
    omega
  have hmask : (0xFFFF00#24 ||| 0x0000FF#24) = BitVec.allOnes 24 := by decide
  rw [RefChip.pageAddr, and_page_mask, hpage, ← and_page_mask, ← BitVec.and_or_distrib_left, hmask, BitVec.and_allOnes, hsum]

theorem RefChip.programByte_capacity (c : RefChip) (p : Nat) (d : Byte) : (c.programByte p d).capacity = c.capacity := rfl

/-- Payload bytes programmed within a page and the capacity: each is ANDed onto its own address. -/
theorem RefChip.peek_programFrom {c : RefChip} {a : BusAddr} {i : Nat} {ds : List Byte} (hw : Memory.wf c.mem = true)
    (hp : a.toNat % 256 + (i + ds.length) ≤ 256) (hc : a.toNat + (i + ds.length) ≤ c.capacity) {j : Nat} (hj : j < ds.length) :
    (c.programFrom a i ds).peek (a.toNat + (i + j)) = c.peek (a.toNat + (i + j)) &&& ds[j] := by
  induction ds generalizing c i j with
  | nil => exact absurd hj (Nat.not_lt_zero j)
  | cons d ds ih =>
    simp only [List.length_cons] at hp hc hj
    have hwf := RefChip.wf_programByte (a.toNat + i) d hw
    rw [RefChip.programFrom, RefChip.pageAddr_toNat (by omega)]
    cases j with
    | zero =>
      rw [RefChip.peek_programFrom_ne a (i + 1) ds _ hwf, RefChip.peek_programByte _ d _ hw]
      · exact if_pos rfl
      · intro k hk hk'
        rw [RefChip.pageAddr_toNat (by omega), RefChip.programByte_capacity, Nat.mod_eq_of_lt (by omega), Nat.mod_eq_of_lt (by omega)]
        omega
    | succ j =>
      have h := ih (i := i + 1) hwf (by omega) (by rw [RefChip.programByte_capacity]; omega) (j := j) (by omega)
      rw [Nat.add_right_comm i 1 j] at h
      refine h.trans (congrArg (· &&& ds[j]) ?_)
      rw [RefChip.peek_programByte _ d _ hw, if_neg]
      · rfl
      · rw [Nat.mod_eq_of_lt (by omega), Nat.mod_eq_of_lt (by omega)]
        omega

/-! ### Reading back -/

/-- Read Data answers the bytes of the array one after another. -/
theorem RefChip.exchangeAll_read {c : RefChip} {a2 a1 a0 : Byte} {before ds : List Byte} (hc : c.cmd = 0x03#8 :: a2 :: a1 :: a0 :: before)
    (hd : ∀ j (hj : j < ds.length), c.peek ((be24 a2 a1 a0).toNat + (before.length + j)) = ds[j]) :
    (c.exchangeAll (List.replicate ds.length 0x00#8)).1 = ds.map some := by
  induction ds generalizing c before with
  | nil => rfl
  | cons d ds ih =>
    have hfirst : c.exchange 0x00#8 = (some d, { c with cmd := c.cmd ++ [0x00#8] }) := by
      have hbyte : c.peek ((be24 a2 a1 a0).toNat + before.length) = d := hd 0 (Nat.succ_pos _)
      simp [RefChip.exchange, hc, hbyte]
    rw [List.length_cons, List.replicate_succ, RefChip.exchangeAll, hfirst, List.map_cons]
    refine congrArg (some d :: ·) (ih (before := before ++ [0x00#8]) (by simp [hc]) fun j hj => ?_)
    have h := hd (j + 1) (by simpa using hj)
    rw [List.getElem_cons_succ] at h
    rw [← h]
    have hlen : (before ++ [0x00#8]).length + j = before.length + (j + 1) := by simp; omega
    rw [hlen]
    exact RefChip.peek_congr rfl rfl _

/-- Settles O56: the bytes programmed are ANDed onto erased ones, and read back from the same addresses. -/
theorem programThenReadGivesTheBytes : Obligations.ProgramThenReadGivesTheBytes := by
  intro c a data k m n hw hne hpage hcap herased c1 c2
  have hc2 : ∀ j (hj : j < data.length), c2.peek (a.toNat + j) = data[j] := by
    intro j hj
    have h := RefChip.peek_programFrom (c := { c with wel := true, cmd := encodeBusCmd (.program a data) }) (a := a) (i := 0) (ds := data)
      hw (by omega) (by rw [Nat.zero_add]; exact hcap) hj
    have herased : ({ c with wel := true, cmd := encodeBusCmd (.program a data) } : RefChip).peek (a.toNat + j) = 0xFF#8 := herased j hj
    rw [Nat.zero_add, herased] at h
    simp only [c2, c1, RefChip.transaction_wren, RefChip.transaction_performs m (decodeBusCmd_program a data) (by simp)]
    refine (RefChip.peek_congr ?_ ?_ _).trans (h.trans ?_)
    · simp [RefChip.perform]
    · simp [RefChip.perform]
    · exact BitVec.allOnes_and
  rw [RefChip.transaction_eq]
  have h := RefChip.exchangeAll_read (c := { c2 with cmd := 0x03#8 :: beBytes24 a }) (before := []) (ds := data) rfl fun j hj => by
    rw [be24_beBytes24, List.length_nil, Nat.zero_add, ← hc2 j hj]
    exact RefChip.peek_congr rfl rfl _
  rw [← h]
  simp [encodeBusCmd, beBytes24, RefChip.exchangeAll, RefChip.exchange, RefChip.select, List.replicate]

end Sys2Proof.Machine
end
